-- ==== Sys2Proof/Word.lean ====
section
/-! DEFINITION. The word types: a register is 32 bits (R6, R23), a channel or buffer byte is 8 bits (R8). -/

namespace Sys2Proof

/-- A byte: 8 bits (R8). -/
abbrev Byte := BitVec 8

/-- A host register or command word: 32 bits (R23, R110). -/
abbrev Word := BitVec 32

end Sys2Proof
end

