-- ==== Sys2Proof/Config.lean ====
section
/-! DEFINITION. What an NFC is built with (the Chip Profile of R20 and the parameters of R6), the reference profile
P_REF of R22, and the free values: constants without a body, which no proof can evaluate. -/

namespace Sys2Proof

/-- ECC severity, R123: `noError < corrected < uncorrectable`. -/
inductive Severity where
  | noError
  | corrected
  | uncorrectable
  deriving DecidableEq, Repr

/-- Where the dummy bytes of the row address stand, R20 `row_dummy_pos`: after (LOW) or before (HIGH) the page index. -/
inductive DummyPos where
  | low
  | high
  deriving DecidableEq, Repr

/-- The Chip Profile `P` of R20, field by field. `eccMap` lists field values with their severity; a value it does
not list is UNCORRECTABLE (R122; log 22). -/
structure Profile where
  pageSizeBytes : Nat
  spareBytes : Nat
  pagesTotal : Nat
  opPageReadToCache : Byte
  opReadFromCache : Byte
  opProgramLoad : Byte
  opProgramExecute : Byte
  opBlockErase : Byte
  opGetStatus : Byte
  opSetStatus : Byte
  opReset : Byte
  opWriteEnable : Byte
  opWriteDisable : Byte
  opReadId : Byte
  statusRegAddr : Byte
  busyMask : Byte
  welMask : Byte
  efailMask : Byte
  pfailMask : Byte
  eccMask : Byte
  eccShift : Nat
  eccMap : List (Nat × Severity)
  pageAddrBytes : Nat
  rowDummyBytes : Nat
  rowDummyPos : DummyPos
  colAddrBytes : Nat
  cacheReadDummyBytes : Nat
  idDummyBytes : Nat
  mfrIdBytes : Nat
  devIdBytes : Nat
  padValue : Byte
  deriving DecidableEq, Repr

/-- The cache-transfer unit `CU`, R12 and R21(a). -/
def Profile.cu (P : Profile) : Nat := P.pageSizeBytes + P.spareBytes

/-- The build-time parameters of R6 and R89. Nothing the model computes reads `delayUnit` (R164) or `regBase` (R89). -/
structure Params where
  profile : Profile
  bufAddrBits : Nat
  delayUnit : Nat
  regBase : Nat
  deriving DecidableEq, Repr

/-- The number of buffer-memory addresses, `2^BUF_ADDR_BITS` (R70). -/
def Params.bufSize (c : Params) : Nat := 2 ^ c.bufAddrBits

/-- The reference profile P_REF of R22. -/
def pRef : Profile where
  pageSizeBytes := 2048
  spareBytes := 64
  pagesTotal := 65536
  opPageReadToCache := 0x13
  opReadFromCache := 0x03
  opProgramLoad := 0x02
  opProgramExecute := 0x10
  opBlockErase := 0xD8
  opGetStatus := 0x0F
  opSetStatus := 0x1F
  opReset := 0xFF
  opWriteEnable := 0x06
  opWriteDisable := 0x04
  opReadId := 0x9F
  statusRegAddr := 0xC0
  busyMask := 0x01
  welMask := 0x02
  efailMask := 0x04
  pfailMask := 0x08
  eccMask := 0x30
  eccShift := 4
  eccMap := [(0, .noError), (1, .corrected), (2, .uncorrectable), (3, .uncorrectable)]
  pageAddrBytes := 2
  rowDummyBytes := 1
  rowDummyPos := .low
  colAddrBytes := 2
  cacheReadDummyBytes := 1
  idDummyBytes := 1
  mfrIdBytes := 1
  devIdBytes := 2
  padValue := 0xFF

/-- The parameters `State.reset` is built with: P_REF (R22 "for a model's default") and BUF_ADDR_BITS at its default
32 (R6). DELAY_UNIT and REG_BASE are OPEN in the spec; DESIGN CHOICE 1 and 0, read by nothing (log 2), unsafe only to a
statement that would name them. -/
def Params.reference : Params where
  profile := pRef
  bufAddrBits := 32
  delayUnit := 1
  regBase := 0

/-- One Command Channel transaction as the device can have seen it: the frame `tx`, the requested response length
`n` (R80), and whether an NFC reset cut it off (R340). -/
structure Transaction where
  tx : List Byte
  n : Nat
  cut : Bool
  deriving DecidableEq, Repr

/-- What the channel answers to one `Transceive`, before the length check of R81. -/
inductive Answer where
  | bytes (resp : List Byte)
  | channelError
  deriving DecidableEq, Repr, Inhabited

/-- FREE VALUE (R80, I3; log 4): the channel oracle's answer, which may depend on every frame so far, the current one
last. -/
opaque Config.channelAnswer : List Transaction → Answer

/-- FREE VALUE (R50, I18; log 7): an unconstrained byte for a draw number and an index. -/
opaque Config.freeByte : Nat → Nat → Byte

/-- FREE VALUE (R350, I16; log 8): which of the competing values of a raced byte wins, or which of the two a raced host
read saw, for a draw number and an address. -/
opaque Config.racePick : Nat → Nat → Nat

/-- FREE VALUE (R340, I6; log 9): how many bytes of the frame that an NFC reset cut off had reached the device. -/
opaque Config.bytesReached : Nat → Nat

end Sys2Proof
end

