-- ==== Sys2Proof/Syntax.lean ====
section
/-! DEFINITION. The instructions: one constructor per row of spec/opcode_table.json, first the twelve commands of
format CMD32 (R111), then the eleven frames of format FRAME (R125 to R135), in the table's order; and the names of the
host registers (R23). -/

namespace Sys2Proof

/-- The rows of the opcode table. A command has no operand in its word (R110): its operands are parameter registers
(R113). A frame carries the bytes after its opcode that are not fixed by the profile. -/
inductive Instr where
  /-- RESET, R260. -/
  | reset
  /-- IDENTIFY, R262. -/
  | identify
  /-- GET_STATUS, R170. -/
  | getStatus
  /-- SET_STATUS, R264. -/
  | setStatus
  /-- WRITE_ENABLE, R266. -/
  | writeEnable
  /-- WRITE_DISABLE, R268. -/
  | writeDisable
  /-- POLL, R168. -/
  | poll
  /-- READ_PAGE, R190. -/
  | readPage
  /-- PROGRAM_PAGE, R195. -/
  | programPage
  /-- ERASE_BLOCK, R200. -/
  | eraseBlock
  /-- READ_RANGE, R232. -/
  | readRange
  /-- PROGRAM_RANGE, R236. -/
  | programRange
  /-- F_PAGE_READ_TO_CACHE(p), R125. -/
  | fPageReadToCache (p : Nat)
  /-- F_READ_FROM_CACHE, R126. -/
  | fReadFromCache
  /-- F_PROGRAM_LOAD, R127: `d` is the whole cache-transfer unit that is loaded, the page's bytes and then the spare
  bytes (the NFC makes the latter `fill(spare_bytes, pad_value)`; log 16). -/
  | fProgramLoad (d : List Byte)
  /-- F_PROGRAM_EXECUTE(p), R128. -/
  | fProgramExecute (p : Nat)
  /-- F_BLOCK_ERASE(p), R129. -/
  | fBlockErase (p : Nat)
  /-- F_GET_STATUS, R130: `a` is the register address byte (the NFC sends `P.status_reg_addr`; log 16). -/
  | fGetStatus (a : Byte)
  /-- F_SET_STATUS(a, v), R131. -/
  | fSetStatus (a v : Byte)
  /-- F_RESET, R132. -/
  | fReset
  /-- F_WRITE_ENABLE, R133. -/
  | fWriteEnable
  /-- F_WRITE_DISABLE, R134. -/
  | fWriteDisable
  /-- F_READ_ID, R135. -/
  | fReadId
  deriving DecidableEq, Repr

/-- The two encoding levels of 30_encoding.md. -/
inductive Format where
  /-- The word written to CMD (R110). -/
  | cmd32
  /-- A frame on the Command Channel (R125 to R135). -/
  | frame
  deriving DecidableEq, Repr

/-- The host registers of R23's map. -/
inductive Reg where
  | ctrl
  | status
  | cmd
  | startPage
  | pageCount
  | bufAddr
  | bufLen
  | maxAttempts
  | pollDelay
  | regArg
  | result
  | failPage
  | pagesDone
  | pollCount
  | txnCount
  | statusRaw
  | idMfr
  | idDev
  | eccCorrCount
  deriving DecidableEq, Repr

end Sys2Proof
end

