-- ==== Sys2Proof/WellFormed.lean ====
section
/-! DEFINITION. Which profiles an NFC may be built with (R21, with the field types of R20), and which instruction
terms have an encoding (R9: `be_N(v)` requires `v < 2^(8N)`; R127: the loaded data fill the cache-transfer unit). -/

namespace Sys2Proof

/-- The eleven opcodes of a profile, in the opcode table's order. -/
def Profile.opcodes (P : Profile) : List Byte :=
  [P.opPageReadToCache, P.opReadFromCache, P.opProgramLoad, P.opProgramExecute, P.opBlockErase, P.opGetStatus,
   P.opSetStatus, P.opReset, P.opWriteEnable, P.opWriteDisable, P.opReadId]

/-- The profile's opcodes are distinct. The NFC does not need this; a device that tells frames apart by their first
byte does (R136). -/
def Profile.opcodesDistinct (P : Profile) : Bool := decide P.opcodes.Nodup

/-- R21(f): `ecc_map(0) = NONE`. -/
def Profile.eccZeroIsNone (P : Profile) : Bool := decide (P.eccMap.lookup 0 = some .noError)

/-- R21(e): `ecc_mask >> ecc_shift` has its lowest bit set, or `ecc_mask = 0`. -/
def Profile.eccShiftFits (P : Profile) : Bool :=
  decide (P.eccMask = 0) || (P.eccMask >>> P.eccShift).getLsbD 0

/-- The checks of a well-formed profile: the field ranges that R20's type column gives, then R21 (b) to (g). R21(a) is
`Profile.cu`'s definition. -/
def Profile.checks (P : Profile) : List Bool :=
  [decide (1 ≤ P.pageSizeBytes), decide (1 ≤ P.pagesTotal), decide (1 ≤ P.pageAddrBytes),
   decide (1 ≤ P.colAddrBytes), decide (P.eccShift ≤ 7),
   decide (P.pagesTotal - 1 < 2 ^ (8 * P.pageAddrBytes)),
   decide (P.pagesTotal ≤ 2 ^ 32),
   decide (P.busyMask ≠ 0), decide (P.efailMask ≠ 0), decide (P.pfailMask ≠ 0),
   P.eccShiftFits,
   P.eccZeroIsNone,
   decide (1 ≤ P.mfrIdBytes), decide (P.mfrIdBytes ≤ 4), decide (1 ≤ P.devIdBytes), decide (P.devIdBytes ≤ 4)]

/-- A well-formed profile (R21). -/
def Profile.wf (P : Profile) : Bool := P.checks.all id

/-- Well-formed parameters: BUF_ADDR_BITS is 1..32 (R6), and the profile is well-formed. -/
def Params.wf (c : Params) : Bool :=
  [decide (1 ≤ c.bufAddrBits), decide (c.bufAddrBits ≤ 32), c.profile.wf].all id

/-- The page index fits the row address's field (R9, R120). -/
def rowFits (P : Profile) (p : Nat) : Bool := decide (p < 2 ^ (8 * P.pageAddrBytes))

/-- An instruction term that the encoding has room for under profile `P`. -/
def Instr.wf (P : Profile) : Instr → Bool
  | .reset => true
  | .identify => true
  | .getStatus => true
  | .setStatus => true
  | .writeEnable => true
  | .writeDisable => true
  | .poll => true
  | .readPage => true
  | .programPage => true
  | .eraseBlock => true
  | .readRange => true
  | .programRange => true
  | .fPageReadToCache p => rowFits P p
  | .fReadFromCache => true
  | .fProgramLoad d => decide (d.length = P.cu)
  | .fProgramExecute p => rowFits P p
  | .fBlockErase p => rowFits P p
  | .fGetStatus _ => true
  | .fSetStatus _ _ => true
  | .fReset => true
  | .fWriteEnable => true
  | .fWriteDisable => true
  | .fReadId => true

end Sys2Proof
end

