-- ==== Sys2Proof/Decode.lean ====
section
/-! DEFINITION. Decoding, total on any word and any bytes and rejecting by name; then the encoder, written from the
same rules. Commands: R110 to R112. Frames: R120, R121 and R125 to R135. Byte order: R74, R75. -/

namespace Sys2Proof

/-! ### Byte helpers (R9) -/

/-- `be_n(v)`: the n-byte big-endian encoding of `v`, most significant byte first (R9). -/
def beBytes : Nat → Nat → List Byte
  | 0, _ => []
  | n + 1, v => beBytes n (v / 256) ++ [BitVec.ofNat 8 v]

/-- The big-endian value of a byte sequence (R9, R124). -/
def beValue (bs : List Byte) : Nat := bs.foldl (fun acc b => acc * 256 + b.toNat) 0

/-- `zeros(n)` (R9). -/
def zeros (n : Nat) : List Byte := List.replicate n 0

/-- `fill(n, v)` (R9). -/
def fill (n : Nat) (v : Byte) : List Byte := List.replicate n v

/-- There are at least `n` bytes (as `n ≤ bs.length`, without computing the length of a long stream). -/
def atLeast : Nat → List Byte → Bool
  | 0, _ => true
  | _ + 1, [] => false
  | n + 1, _ :: bs => atLeast n bs

/-- Exactly `n` bytes off the front, with the rest; nothing where there are fewer. -/
def takeExact (n : Nat) (bs : List Byte) : Option (List Byte × List Byte) :=
  if atLeast n bs then some (bs.take n, bs.drop n) else none

/-- Every byte is 0x00. -/
def allZero (bs : List Byte) : Bool := bs.all (fun b => b == 0)

/-! ### Operand assembly (R120, R121) -/

/-- The row address `row(p)`, R120. -/
def row (P : Profile) (p : Nat) : List Byte :=
  match P.rowDummyPos with
  | .low => beBytes P.pageAddrBytes p ++ zeros P.rowDummyBytes
  | .high => zeros P.rowDummyBytes ++ beBytes P.pageAddrBytes p

/-- The column address `col()`, R121: always zero. -/
def col (P : Profile) : List Byte := zeros P.colAddrBytes

/-! ### Decoding -/

/-- Why bits are no instruction. -/
inductive DecodeError where
  /-- Fewer bytes than the instruction has. -/
  | tooShort
  /-- A command word with RSVD ≠ 0 or an unlisted CODE (R112). -/
  | illegalCommand
  /-- A frame whose first byte is none of the profile's opcodes. -/
  | unknownOpcode
  /-- A dummy or column byte that is not 0x00 (R120, R121, R126, R135). -/
  | dummyNotZero
  deriving DecidableEq, Repr

/-- `v[7:0]`, CODE (R110). -/
def cmdCode (w : Word) : Nat := w.toNat % 256

/-- R111's decode of a command word: RSVD must be 0 and CODE listed; every other word is illegal (R112). -/
def decodeCommand (w : Word) : Except DecodeError Instr :=
  if w.toNat / 256 = 0 then
    match cmdCode w with
    | 0x01 => .ok .reset
    | 0x02 => .ok .identify
    | 0x03 => .ok .getStatus
    | 0x04 => .ok .setStatus
    | 0x05 => .ok .writeEnable
    | 0x06 => .ok .writeDisable
    | 0x07 => .ok .poll
    | 0x10 => .ok .readPage
    | 0x11 => .ok .programPage
    | 0x12 => .ok .eraseBlock
    | 0x20 => .ok .readRange
    | 0x21 => .ok .programRange
    | _ => .error .illegalCommand
  else .error .illegalCommand

/-- Reads a fixed number of bytes and hands them on. -/
def withField (n : Nat) (bs : List Byte) (k : List Byte → List Byte → Except DecodeError (Instr × List Byte)) :
    Except DecodeError (Instr × List Byte) :=
  match takeExact n bs with
  | some (front, rest) => k front rest
  | none => .error .tooShort

/-- Reads `n` bytes that must be 0x00, then answers `i`. -/
def withZeros (n : Nat) (bs : List Byte) (i : Instr) : Except DecodeError (Instr × List Byte) :=
  withField n bs fun d rest => if allZero d then .ok (i, rest) else .error .dummyNotZero

/-- Reads a row address (R120) and builds the instruction from its page index. -/
def withRow (P : Profile) (bs : List Byte) (mk : Nat → Instr) : Except DecodeError (Instr × List Byte) :=
  match P.rowDummyPos with
  | .low => withField P.pageAddrBytes bs fun idx rest => withZeros P.rowDummyBytes rest (mk (beValue idx))
  | .high => withField P.rowDummyBytes bs fun d rest =>
      if allZero d then withField P.pageAddrBytes rest fun idx rest' => .ok (mk (beValue idx), rest')
      else .error .dummyNotZero

/-- Reads the frame at the head of a byte stream, as a device built for profile `P` does: the first byte tells the
kind, and the length follows from the profile (section 3 of 30_encoding.md). Where opcodes collide, the first row of
the table wins (log 17). -/
def decodeFrame (P : Profile) : List Byte → Except DecodeError (Instr × List Byte)
  | [] => .error .tooShort
  | op :: bs =>
    if op = P.opPageReadToCache then withRow P bs .fPageReadToCache
    else if op = P.opReadFromCache then withZeros (P.colAddrBytes + P.cacheReadDummyBytes) bs .fReadFromCache
    else if op = P.opProgramLoad then
      withField P.colAddrBytes bs fun c rest =>
        if allZero c then withField P.cu rest fun d rest' => .ok (.fProgramLoad d, rest') else .error .dummyNotZero
    else if op = P.opProgramExecute then withRow P bs .fProgramExecute
    else if op = P.opBlockErase then withRow P bs .fBlockErase
    else if op = P.opGetStatus then withField 1 bs fun f rest => .ok (.fGetStatus (f.headD 0), rest)
    else if op = P.opSetStatus then
      withField 1 bs fun f rest => withField 1 rest fun g rest' => .ok (.fSetStatus (f.headD 0) (g.headD 0), rest')
    else if op = P.opReset then .ok (.fReset, bs)
    else if op = P.opWriteEnable then .ok (.fWriteEnable, bs)
    else if op = P.opWriteDisable then .ok (.fWriteDisable, bs)
    else if op = P.opReadId then withZeros P.idDummyBytes bs .fReadId
    else .error .unknownOpcode

/-- A 32-bit word from its four bytes, bit 0 in the byte at the lowest address (R74). -/
def leWord (b0 b1 b2 b3 : Byte) : Word :=
  BitVec.ofNat 32 (b0.toNat + 256 * b1.toNat + 65536 * b2.toNat + 16777216 * b3.toNat)

/-- The decoder on a byte stream, in either format: the instruction and the bytes after it, or the reason. -/
def decode (P : Profile) : Format → List Byte → Except DecodeError (Instr × List Byte)
  | .cmd32, b0 :: b1 :: b2 :: b3 :: rest =>
    match decodeCommand (leWord b0 b1 b2 b3) with
    | .ok i => .ok (i, rest)
    | .error e => .error e
  | .cmd32, _ => .error .tooShort
  | .frame, bs => decodeFrame P bs

/-! ### Encoding -/

/-- CODE of a command (R111); a frame has none. -/
def commandCode : Instr → Option Nat
  | .reset => some 0x01
  | .identify => some 0x02
  | .getStatus => some 0x03
  | .setStatus => some 0x04
  | .writeEnable => some 0x05
  | .writeDisable => some 0x06
  | .poll => some 0x07
  | .readPage => some 0x10
  | .programPage => some 0x11
  | .eraseBlock => some 0x12
  | .readRange => some 0x20
  | .programRange => some 0x21
  | .fPageReadToCache _ => none
  | .fReadFromCache => none
  | .fProgramLoad _ => none
  | .fProgramExecute _ => none
  | .fBlockErase _ => none
  | .fGetStatus _ => none
  | .fSetStatus _ _ => none
  | .fReset => none
  | .fWriteEnable => none
  | .fWriteDisable => none
  | .fReadId => none

/-- Which of the two encoding levels an instruction belongs to. -/
def Instr.format (i : Instr) : Format :=
  match commandCode i with
  | some _ => .cmd32
  | none => .frame

/-- The four bytes of the word with CODE `c` and RSVD 0, lowest address first (R74, R110). -/
def commandBytes (c : Nat) : List Byte := [BitVec.ofNat 8 c, 0, 0, 0]

/-- The bytes of an instruction: a command's word (R111), a frame's `tx` (R125 to R135). -/
def encode (P : Profile) : Instr → List Byte
  | .reset => commandBytes 0x01
  | .identify => commandBytes 0x02
  | .getStatus => commandBytes 0x03
  | .setStatus => commandBytes 0x04
  | .writeEnable => commandBytes 0x05
  | .writeDisable => commandBytes 0x06
  | .poll => commandBytes 0x07
  | .readPage => commandBytes 0x10
  | .programPage => commandBytes 0x11
  | .eraseBlock => commandBytes 0x12
  | .readRange => commandBytes 0x20
  | .programRange => commandBytes 0x21
  | .fPageReadToCache p => P.opPageReadToCache :: row P p
  | .fReadFromCache => P.opReadFromCache :: (col P ++ zeros P.cacheReadDummyBytes)
  | .fProgramLoad d => P.opProgramLoad :: (col P ++ d)
  | .fProgramExecute p => P.opProgramExecute :: row P p
  | .fBlockErase p => P.opBlockErase :: row P p
  | .fGetStatus a => [P.opGetStatus, a]
  | .fSetStatus a v => [P.opSetStatus, a, v]
  | .fReset => [P.opReset]
  | .fWriteEnable => [P.opWriteEnable]
  | .fWriteDisable => [P.opWriteDisable]
  | .fReadId => P.opReadId :: zeros P.idDummyBytes

/-- The response length `n` that goes with a frame (R125 to R135). -/
def respLen (P : Profile) : Instr → Nat
  | .fReadFromCache => P.cu
  | .fGetStatus _ => 1
  | .fReadId => P.mfrIdBytes + P.devIdBytes
  | _ => 0

/-! ### The opcode table's own numbering -/

/-- The bytes of a number, least significant first. -/
def leBytes : Nat → Nat → List Byte
  | 0, _ => []
  | n + 1, w => BitVec.ofNat 8 w :: leBytes n (w / 256)

/-- At least as many bytes as any frame of the profile has. -/
def frameBound (P : Profile) : Nat :=
  3 + P.pageAddrBytes + P.rowDummyBytes + P.colAddrBytes + P.cacheReadDummyBytes + P.cu + P.idDummyBytes

/-- The byte stream the table's `nbits` bits `w` stand for, followed by zeros. -/
def tableBytes (P : Profile) (nbits w : Nat) : List Byte := leBytes (nbits / 8) w ++ zeros (frameBound P)

/-- The instruction that the table's bits decode to, under profile `P`: a 32-bit row is a command word (R110), a
shorter one the first bytes of a frame. -/
def decodeTableWordFor (P : Profile) (nbits w : Nat) : Option Instr :=
  match decode P (if nbits = 32 then .cmd32 else .frame) (tableBytes P nbits w) with
  | .ok (i, _) => some i
  | .error _ => none

/-- The table's own profile is P_REF ("match is the P_REF value", opcode_table.json). -/
def decodeTableWord (nbits w : Nat) : Option Instr := decodeTableWordFor pRef nbits w

end Sys2Proof
end

