-- ==== Sys2Proof/Machine/State.lean ====
section
/-! DEFINITION. The machine's state as plain data, its reasons to stop, and the state after reset. Host registers:
10_state.md R23 to R42. Sequencer: R40, R47. Buffer memory: R70, R72. Channel and device: R49, R80, R95. -/

namespace Sys2Proof.Machine

/-- `RESULT.ERR_CODE`, R300. Codes 10 to 15 are never written and have no name. -/
inductive ErrCode where
  | none
  | channelError
  | timeout
  | eraseFailure
  | programFailure
  | uncorrectableEcc
  | invalidRange
  | identityMismatch
  | illegalCommand
  | correctedEccFatal
  deriving DecidableEq, Repr

/-- The phases of R47; `phase` is this hardware's program counter. -/
inductive Phase where
  | idle
  | start
  | pollRead
  | pollDelay
  | rdSelect
  | rdCache
  | wrEnable
  | wrLoad
  | wrExec
  | erErase
  | rstSend
  | single
  deriving DecidableEq, Repr

/-- Where a poll's Ready goes, R40. -/
inductive Ret where
  | poll
  | reset
  | read
  | prog
  | erase
  deriving DecidableEq, Repr

/-- The host registers, R23 to R42, by field: reserved bits have no storage (they read 0, R43), and STATUS.IRQ is
always `IRQ_EN & DONE` (R25). -/
structure Regs where
  /-- CTRL[0], R24. -/
  irqEn : Bool
  /-- CTRL[1], R24. -/
  eccCorrFatal : Bool
  /-- STATUS[0], R25, R48. -/
  busy : Bool
  /-- STATUS[1], R25. -/
  done : Bool
  /-- STATUS[2], R25. -/
  err : Bool
  /-- STATUS[3], R25, R46. -/
  ovr : Bool
  /-- STATUS[5:4], R25, R123. -/
  eccMax : Severity
  /-- STATUS[7:6], R25, R123. -/
  lastEcc : Severity
  /-- R27. -/
  startPage : Word
  /-- R28. -/
  pageCount : Word
  /-- R29: only bits [BUF_ADDR_BITS-1:0] are ever set. -/
  bufAddr : Word
  /-- R30. -/
  bufLen : Word
  /-- R31. -/
  maxAttempts : Word
  /-- R32. -/
  pollDelay : Word
  /-- REG_ARG[7:0], R33. -/
  regAddr : Byte
  /-- REG_ARG[15:8], R33. -/
  regValue : Byte
  /-- RESULT[3:0], R34. -/
  errCode : ErrCode
  /-- RESULT[8], R34. -/
  pageValid : Bool
  /-- R35. -/
  failPage : Word
  /-- R36. -/
  pagesDone : Word
  /-- R37. -/
  pollCount : Word
  /-- R38. -/
  txnCount : Word
  /-- STATUS_RAW[7:0], R39. -/
  statusRaw : Byte
  /-- R41. -/
  idMfr : Word
  /-- R41. -/
  idDev : Word
  /-- R42. -/
  eccCorrCount : Word
  deriving DecidableEq, Repr

/-- The internal sequencer state `st`, R40. -/
structure Seq where
  phase : Phase
  word : Word
  ret : Ret
  cur : Nat
  scratch : List Byte
  deriving DecidableEq, Repr

/-- Buffer memory (R72): the bytes that differ from what an unlisted address reads as, addresses strictly rising. -/
abbrev Memory := List Host.Cell

/-- What a byte of buffer memory that nothing has written reads as. The spec gives no contents (R89). DESIGN CHOICE
0x00 (log 6), unsafe: a statement about an unwritten byte would rest on it. -/
def Memory.unlisted : Byte := 0x00

/-- The reference device `RD` of R95, with its scripts. `arr` and `feat` are association lists: a page not listed holds
`fill(CU, 0xFF)`, a feature byte not listed 0x00 (log 5). -/
structure RefDevice where
  arr : List (Nat × List Byte)
  cache : List Byte
  wel : Bool
  efail : Bool
  pfail : Bool
  ecc : Nat
  busyLeft : Nat
  feat : List (Byte × Byte)
  id : List Byte
  busyScript : List Nat
  eccOf : List (Nat × Nat)
  pfailPages : List Nat
  efailPages : List Nat
  chanErr : List Nat
  /-- Transactions that reached the channel so far: `chan_err` holds 1-based transaction numbers over the whole run. -/
  txns : Nat
  /-- PPB, pages per block. -/
  ppb : Nat
  deriving DecidableEq, Repr

/-- What answers the Command Channel (log 4): prepared answers, used up in order, and after them the channel oracle's
free answers (R80); or the reference device (R95). -/
inductive Device where
  | oracle (answers : List Answer)
  | reference (rd : RefDevice)
  deriving DecidableEq, Repr

/-- The Command Channel: every transaction so far, oldest first (an answer may depend on all of them, R80), and what
answers it. -/
structure Channel where
  sent : List Transaction
  dev : Device
  deriving DecidableEq, Repr

/-- What the environment does next (R304, R361; log 3). -/
inductive Input where
  /-- The controller takes its step. -/
  | nfc
  /-- A host write of `v` at register offset `off`, `width` bytes wide. -/
  | regWrite (off width : Nat) (v : Word)
  /-- A host read at register offset `off`, `width` bytes wide. -/
  | regRead (off width : Nat)
  /-- The host writes a byte of buffer memory. -/
  | bufWrite (a : Nat) (b : Byte)
  /-- The host reads a byte of buffer memory. -/
  | bufRead (a : Nat)
  /-- The host's loop `L: rd STATUS -> t; if t[1] = 0 goto L` (R140; log 29). -/
  | waitDone
  /-- The NFC reset input, between two steps (R340). -/
  | reset
  /-- The NFC reset input, during the `Transceive` of the step in progress (R340). -/
  | resetInTransceive
  deriving DecidableEq, Repr

/-- A host read that broke R350 (I16; log 8): it saw the byte that stood there, or the one the command stores there
later, if it does. -/
structure RacedRead where
  addr : Nat
  /-- The byte in memory when the host read. -/
  old : Byte
  /-- The byte the NFC has stored there since, in the same command. -/
  new : Option Byte
  /-- The number of the free draw that decides between the two. -/
  draw : Nat
  deriving DecidableEq, Repr

/-- The whole machine. `params` never changes (R20). `inputs`, `readData`, `race`, `racedReads` and `draws` are the
model's own (log 3, 19, 8, 8, 21). -/
structure State where
  /-- What the NFC is built with (R6, R20; log 1). -/
  params : Params
  /-- The host registers. -/
  regs : Regs
  /-- The sequencer. -/
  seq : Seq
  /-- Buffer memory. -/
  mem : Memory
  /-- The Command Channel and the device. -/
  chan : Channel
  /-- The environment's next actions, first one first. -/
  inputs : List Input
  /-- What the host's last read returned (R140); nothing where it was a raced one, which `racedReads` holds. -/
  readData : Option Word
  /-- Bytes of the current command's slots that the host raced for, each with the value that competes (R350). -/
  race : List (Nat × Byte)
  /-- The current or last command's host reads that broke R350, oldest first. -/
  racedReads : List RacedRead
  /-- How many free draws were made. -/
  draws : Nat
  deriving DecidableEq, Repr

/-- Why the machine stops with a fault. -/
inductive Fault where
  /-- Raised by the steps that move a page (RD_CACHE, WR_LOAD) and by a host access to buffer memory whose address is not
  below 2^BUF_ADDR_BITS, or whose page lies before START_PAGE. The NFC never makes such an access from a state of the
  invariant (R72, R241). Safe: the machine stops. -/
  | bufferOutOfRange
  /-- Raised by a host register access at an offset above 0xFF: the window is 256 bytes (R23, R70). Safe: the machine
  stops (log 11). -/
  | registerOutsideWindow
  deriving DecidableEq, Repr

/-- Why a step has no meaning. -/
inductive Refusal where
  /-- Raised by `exec` for an instruction without a meaning. Safe. -/
  | notModelled (mnemonic : String)
  /-- Raised by `step` in a machine whose parameters break R21: such an NFC is not built (I1). Safe. -/
  | illFormedProfile
  /-- Raised by a host register access that is not a whole aligned 32-bit word (R74, I21: "refuse"). Safe. -/
  | registerAccessNotWord
  /-- Raised by a frame in a phase that does not send it (R125 to R135 name the phases that do). Safe (log 10). -/
  | frameOutsideItsPhase
  /-- Raised by a frame whose operand its encoding has no room for (R9, R127). Safe (log 10). -/
  | illFormedFrame
  /-- Raised by the controller in phase SINGLE with a command word that is no one-frame command (R269); no run of the
  invariant gets there. Safe (log 10). -/
  | noFrameForWord
  deriving DecidableEq, Repr

/-- Every host register's reset value, R50: 0 for every field. -/
def Regs.reset : Regs where
  irqEn := false
  eccCorrFatal := false
  busy := false
  done := false
  err := false
  ovr := false
  eccMax := .noError
  lastEcc := .noError
  startPage := 0
  pageCount := 0
  bufAddr := 0
  bufLen := 0
  maxAttempts := 0
  pollDelay := 0
  regAddr := 0
  regValue := 0
  errCode := .none
  pageValid := false
  failPage := 0
  pagesDone := 0
  pollCount := 0
  txnCount := 0
  statusRaw := 0
  idMfr := 0
  idDev := 0
  eccCorrCount := 0

/-- The sequencer's reset values, R50, for a given content of the scratch buffer, which R50 leaves unspecified. -/
def Seq.resetWith (scratch : List Byte) : Seq where
  phase := .idle
  word := 0
  ret := .poll
  cur := 0
  scratch := scratch

/-- The machine right after reset, R340 and R341. Scratch: DESIGN CHOICE zeros(CU) (log 7), unsafe but never observable
(R50). Memory lists nothing (log 6). Parameters: P_REF (R22; log 1). The channel's answers are free (log 4). The
environment has nothing planned, so the NFC waits for a write to CMD (R341; log 18). -/
def State.reset : State where
  params := Params.reference
  regs := Regs.reset
  seq := Seq.resetWith (zeros Params.reference.profile.cu)
  mem := []
  chan := { sent := [], dev := .oracle [] }
  inputs := []
  readData := none
  race := []
  racedReads := []
  draws := 0

end Sys2Proof.Machine
end

