-- ==== Sys2Proof/Machine/RefDevice.lean ====
section
/-! DEFINITION. The reference device RD of 20_memory.md R95 to R97: how it builds its status byte and answers frames.
It is no part of the NFC; it stands behind the Command Channel where `Device.reference` says so (log 5). -/

namespace Sys2Proof.Machine

/-- `arr[p]`, R95: a page not listed holds `fill(CU, 0xFF)` (log 5). -/
def rdPage (P : Profile) (rd : RefDevice) (p : Nat) : List Byte := (rd.arr.lookup p).getD (fill P.cu 0xFF)

/-- `busy_left <- next(busy_script)`, R97: the head, or 0 where the list is empty. -/
def rdStart (rd : RefDevice) : RefDevice :=
  { rd with busyLeft := rd.busyScript.headD 0, busyScript := rd.busyScript.tail }

/-- The status byte, R96. -/
def rdStatus (P : Profile) (rd : RefDevice) : Byte :=
  (if 0 < rd.busyLeft then P.busyMask else 0) ||| (if rd.wel then P.welMask else 0)
    ||| (if rd.efail then P.efailMask else 0) ||| (if rd.pfail then P.pfailMask else 0)
    ||| ((BitVec.ofNat 8 rd.ecc <<< P.eccShift) &&& P.eccMask)

/-- program-load, R97: `d` and then 0xFF up to CU. -/
def rdLoad (P : Profile) (rd : RefDevice) (d : List Byte) : RefDevice :=
  { rd with cache := d ++ fill (P.cu - d.length) 0xFF }

/-- program-execute, R97: ignored while the write-enable latch is clear. -/
def rdExecute (rd : RefDevice) (p : Nat) : RefDevice :=
  if rd.wel then
    let done : RefDevice :=
      if rd.pfailPages.contains p then { rd with pfail := true }
      else { rd with arr := (p, rd.cache) :: rd.arr.filter (fun e => e.1 != p), pfail := false }
    rdStart { done with efail := false, ecc := 0, wel := false }
  else rd

/-- block-erase, R97: ignored while the write-enable latch is clear. An erased page is one that `arr` does not list. -/
def rdErase (rd : RefDevice) (p : Nat) : RefDevice :=
  if rd.wel then
    let b := p / rd.ppb
    let done : RefDevice :=
      if rd.efailPages.contains (b * rd.ppb) then { rd with efail := true }
      else { rd with arr := rd.arr.filter (fun e => e.1 / rd.ppb != b), efail := false }
    rdStart { done with pfail := false, ecc := 0, wel := false }
  else rd

/-- What RD does with one frame, R97. Commands are no frames. -/
def rdFrame (P : Profile) (rd : RefDevice) (i : Instr) : Answer × RefDevice :=
  match i with
  | .fPageReadToCache p =>
    (.bytes [], rdStart { rd with cache := rdPage P rd p, ecc := (rd.eccOf.lookup p).getD 0, efail := false, pfail := false })
  | .fReadFromCache => (.bytes (rd.cache.take P.cu), rd)
  | .fProgramLoad d => (.bytes [], rdLoad P rd d)
  | .fProgramExecute p => (.bytes [], rdExecute rd p)
  | .fBlockErase p => (.bytes [], rdErase rd p)
  | .fGetStatus a =>
    if a = P.statusRegAddr then (.bytes [rdStatus P rd], { rd with busyLeft := rd.busyLeft - 1 })
    else (.bytes [(rd.feat.lookup a).getD 0], rd)
  | .fSetStatus a v => (.bytes [], { rd with feat := (a, v) :: rd.feat.filter (fun e => e.1 != a) })
  | .fReset => (.bytes [], rdStart { rd with wel := false, efail := false, pfail := false, ecc := 0 })
  | .fWriteEnable => (.bytes [], { rd with wel := true })
  | .fWriteDisable => (.bytes [], { rd with wel := false })
  | .fReadId => (.bytes (rd.id.take (P.mfrIdBytes + P.devIdBytes)), rd)
  | .reset => (.channelError, rd)
  | .identify => (.channelError, rd)
  | .getStatus => (.channelError, rd)
  | .setStatus => (.channelError, rd)
  | .writeEnable => (.channelError, rd)
  | .writeDisable => (.channelError, rd)
  | .poll => (.channelError, rd)
  | .readPage => (.channelError, rd)
  | .programPage => (.channelError, rd)
  | .eraseBlock => (.channelError, rd)
  | .readRange => (.channelError, rd)
  | .programRange => (.channelError, rd)

/-- A program-load frame that brings fewer bytes than the cache has, which R97 lists with the others: the bytes after
its zero column address, or nothing where the frame is of another shape. -/
def rdShortLoad (P : Profile) (tx : List Byte) : Option (List Byte) :=
  match tx with
  | [] => none
  | op :: bs =>
    if op = P.opProgramLoad then
      match takeExact P.colAddrBytes bs with
      | some (c, d) => if allZero c && decide (d.length < P.cu) then some d else none
      | none => none
    else none

/-- RD's answer to the bytes of one transaction, R97: a frame not listed, or of the wrong length, is a ChannelError. -/
def rdAnswer (P : Profile) (rd : RefDevice) (tx : List Byte) : Answer × RefDevice :=
  match rdShortLoad P tx with
  | some d => (.bytes [], rdLoad P rd d)
  | none =>
    match decodeFrame P tx with
    | .ok (i, []) => rdFrame P rd i
    | .ok (_, _ :: _) => (.channelError, rd)
    | .error _ => (.channelError, rd)

/-- RD takes one transaction, R95: the ones numbered in `chan_err` return ChannelError and do not reach its state. -/
def rdTransaction (P : Profile) (rd : RefDevice) (tx : List Byte) : Answer × RefDevice :=
  let counted : RefDevice := { rd with txns := rd.txns + 1 }
  if rd.chanErr.contains (rd.txns + 1) then (.channelError, counted) else rdAnswer P counted tx

end Sys2Proof.Machine
end

