-- ==== Sys2Proof/Machine/Ops.lean ====
section
/-! DEFINITION. The named operations over buffer memory, the registers, the sequencer and the Command Channel: MemRead
and MemWrite (R72), Transceive (R80, R81), ending a command with an error (R310, the machine's exception entry) and
without one (R311), accepting a command (R45), and starting a poll (R163). -/

namespace Sys2Proof.Machine

/-! ### Buffer memory (R72) -/

/-- One byte of memory. -/
def memByte : Memory → Nat → Byte
  | [], _ => Memory.unlisted
  | (k, v) :: m, a => if a = k then v else memByte m a

/-- Writes one byte; a byte equal to what an unlisted address reads as is not listed. -/
def memPut : Memory → Nat → Byte → Memory
  | [], a, b => if b = Memory.unlisted then [] else [(a, b)]
  | (k, v) :: m, a, b =>
    if a < k then (if b = Memory.unlisted then (k, v) :: m else (a, b) :: (k, v) :: m)
    else if a = k then (if b = Memory.unlisted then m else (a, b) :: m)
    else (k, v) :: memPut m a b

/-- `MemRead(a, n)`, R72. -/
def memRead (m : Memory) : Nat → Nat → List Byte
  | _, 0 => []
  | a, n + 1 => memByte m a :: memRead m (a + 1) n

/-- `MemWrite(a, len(v), v)`, R72. -/
def memWrite (m : Memory) : Nat → List Byte → Memory
  | _, [] => m
  | a, b :: bs => memWrite (memPut m a b) (a + 1) bs

/-- Every listed address is above `lo`. -/
def memAbove (lo : Nat) (m : Memory) : Bool := m.all (fun c => decide (lo < c.1))

/-- The canonical form: addresses strictly rising, no entry equal to what an unlisted address reads as. -/
def memWf : Memory → Bool
  | [] => true
  | (k, v) :: m => decide (v ≠ Memory.unlisted) && memAbove k m && memWf m

/-! ### Bytes the host raced for (R350) -/

/-- The values that compete for address `a`. -/
def rivals (race : List (Nat × Byte)) (a : Nat) : List Byte :=
  race.filterMap fun e => if e.1 = a then some e.2 else none

/-- The byte at address `a`: `v`, or where the host raced for it a free choice among `v` and the competing values. -/
def settleByte (race : List (Nat × Byte)) (draw a : Nat) (v : Byte) : Byte :=
  match rivals race a with
  | [] => v
  | rs => ((v :: rs)[Config.racePick draw a % (rs.length + 1)]?).getD v

/-- The bytes at addresses `a`, `a+1`, … -/
def settleBytes (race : List (Nat × Byte)) (draw : Nat) : Nat → List Byte → List Byte
  | _, [] => []
  | a, b :: bs => settleByte race draw a b :: settleBytes race draw (a + 1) bs

/-- A raced host read after the NFC has stored `bytes` from address `lo` on: the byte stored where it read is the new
value. -/
def RacedRead.afterStore (lo : Nat) (bytes : List Byte) (e : RacedRead) : RacedRead :=
  if lo ≤ e.addr then { e with new := bytes[e.addr - lo]? <|> e.new } else e

/-! ### Single updates -/

/-- `phase <- ph` (R10). -/
def setPhase (ph : Phase) (s : State) : State := { s with seq := { s.seq with phase := ph } }

/-- `st.cur <- n`. -/
def setCur (n : Nat) (s : State) : State := { s with seq := { s.seq with cur := n } }

/-- `st.scratch <- bs`. -/
def setScratch (bs : List Byte) (s : State) : State := { s with seq := { s.seq with scratch := bs } }

/-- `reg[STATUS_RAW.VALUE] <- b` (R39). -/
def setStatusRaw (b : Byte) (s : State) : State := { s with regs := { s.regs with statusRaw := b } }

/-- `reg[STATUS.OVR] <- 1` (R46). -/
def setOvr (s : State) : State := { s with regs := { s.regs with ovr := true } }

/-- `reg[POLL_COUNT] <- reg[POLL_COUNT] + 1` (R163). -/
def countAttempt (s : State) : State := { s with regs := { s.regs with pollCount := s.regs.pollCount + 1 } }

/-- A free draw was made. -/
def countDraw (s : State) : State := { s with draws := s.draws + 1 }

/-- `reg[ID_MFR]` and `reg[ID_DEV]` from a read-ID response, R124: the first byte is the most significant. -/
def setIds (r : List Byte) (s : State) : State :=
  let m := s.params.profile.mfrIdBytes
  { s with regs := { s.regs with
      idMfr := BitVec.ofNat 32 (beValue (r.take m))
      idDev := BitVec.ofNat 32 (beValue ((r.drop m).take s.params.profile.devIdBytes)) } }

/-! ### Ending and starting a command -/

/-- FAIL_PAGE's value for an optional failing page (R310). -/
def failPageWord (page : Option Nat) : Word :=
  match page with
  | some p => BitVec.ofNat 32 p
  | none => 0

/-- `raise E(page)`, R310: what this hardware has for taking an exception. -/
def raiseError (e : ErrCode) (page : Option Nat) (s : State) : State :=
  { s with
    regs := { s.regs with
      errCode := e, failPage := failPageWord page, pageValid := page.isSome
      err := true, done := true, busy := false }
    seq := { s.seq with phase := .idle } }

/-- `finish_ok()`, R311. -/
def finishOk (s : State) : State :=
  { s with
    regs := { s.regs with
      errCode := .none, pageValid := false, failPage := 0
      err := false, done := true, busy := false }
    seq := { s.seq with phase := .idle } }

/-- Acceptance of a command word, R45. The races of an earlier command are forgotten (log 8). -/
def acceptCommand (w : Word) (s : State) : State :=
  { s with
    regs := { s.regs with
      done := false, err := false, eccMax := .noError, lastEcc := .noError
      errCode := .none, pageValid := false, failPage := 0, pagesDone := 0
      pollCount := 0, txnCount := 0, eccCorrCount := 0, busy := true }
    seq := { s.seq with word := w, phase := .start }
    race := []
    racedReads := [] }

/-- `begin_poll(r)`, R163. -/
def beginPoll (r : Ret) (s : State) : State :=
  { s with
    regs := { s.regs with pollCount := 0 }
    seq := { s.seq with ret := r, phase := .pollRead } }

/-- The free bytes that the scratch buffer holds after an NFC reset (R50, I18: any value). -/
def freeScratch (s : State) : List Byte :=
  (List.range s.params.profile.cu).map (fun k => Config.freeByte s.draws k)

/-- NFC reset, R340: every host register and the sequencer take their reset values; buffer memory, the channel and the
parameters are untouched. -/
def nfcReset (s : State) : State :=
  { s with regs := Regs.reset, seq := Seq.resetWith (freeScratch s), race := [], draws := s.draws + 1 }

/-! ### The Command Channel (R80, R81) -/

/-- The channel's answer to a transaction, and what answers the next one. -/
def deviceReply (P : Profile) (c : Channel) (t : Transaction) : Answer × Device :=
  match c.dev with
  | .oracle (a :: rest) => (a, .oracle rest)
  | .oracle [] => (Config.channelAnswer (c.sent ++ [t]), .oracle [])
  | .reference rd => ((rdTransaction P rd t.tx).1, .reference (rdTransaction P rd t.tx).2)

/-- R81: a response whose length is not the requested one is a ChannelError, here `none`. -/
def checkedResponse (n : Nat) : Answer → Option (List Byte)
  | .bytes r => if r.length = n then some r else none
  | .channelError => none

/-- The transaction that sends frame `i`. -/
def frameTxn (P : Profile) (i : Instr) : Transaction := { tx := encode P i, n := respLen P i, cut := false }

/-- `Transceive`'s result for frame `i` in this state: `some resp` for `Ok(resp)`, `none` for ChannelError. -/
def frameAnswer (i : Instr) (s : State) : Option (List Byte) :=
  checkedResponse (respLen s.params.profile i) (deviceReply s.params.profile s.chan (frameTxn s.params.profile i)).1

/-- The state after `Transceive` of frame `i` has returned: the channel has seen the frame, and TXN_COUNT counts it,
modulo 2^32, whatever the result (R38). -/
def afterFrame (i : Instr) (s : State) : State :=
  { s with
    chan := { sent := s.chan.sent ++ [frameTxn s.params.profile i]
              dev := (deviceReply s.params.profile s.chan (frameTxn s.params.profile i)).2 }
    regs := { s.regs with txnCount := s.regs.txnCount + 1 } }

/-- Sends frame `i`: on a ChannelError raises CHANNEL_ERROR with `page` at once (R302: no retry), else goes on with the
response. -/
def sendFrame (i : Instr) (page : Option Nat) (k : List Byte → State → State) (s : State) : State :=
  match frameAnswer i s with
  | some r => k r (afterFrame i s)
  | none => raiseError .channelError page (afterFrame i s)

/-- A frame's meaning ends in the next state `t` where the frame has an encoding (log 10). -/
def frameNext (i : Instr) (s t : State) : Host.Outcome State Fault Refusal :=
  if i.wf s.params.profile then .next t else .refused .illFormedFrame

end Sys2Proof.Machine
end

