-- ==== Sys2Proof/Machine/Operands.lean ====
section
/-! DEFINITION. Operand forms: the register operands of the commands (R113), the range check (R230), the buffer slot of
a page (R73, R192), the slots a busy command owns (R350), and the register map (R23). -/

namespace Sys2Proof.Machine

/-- `range_ok(s, c)`, R230: exact arithmetic, no wrap. -/
def rangeOk (s : State) (start count : Nat) : Bool :=
  decide (start + count ≤ s.params.profile.pagesTotal) &&
  decide (count * s.params.profile.pageSizeBytes ≤ s.regs.bufLen.toNat) &&
  decide (s.regs.bufAddr.toNat + count * s.params.profile.pageSizeBytes ≤ s.params.bufSize)

/-- The buffer address of the current page's slot, R192 and R197. -/
def slotAddr (s : State) : Nat :=
  s.regs.bufAddr.toNat + (s.seq.cur - s.regs.startPage.toNat) * s.params.profile.pageSizeBytes

/-- The current page's slot exists: `st.cur` is not before START_PAGE (R241) and the slot ends inside the address space
(R72). True in every state a run reaches. -/
def slotFits (s : State) : Bool :=
  decide (s.regs.startPage.toNat ≤ s.seq.cur) &&
  decide (slotAddr s + s.params.profile.pageSizeBytes ≤ s.params.bufSize)

/-- The bytes of the current page's slot, as WR_LOAD reads them (R197), with R350's races settled. -/
def slotData (s : State) : List Byte :=
  settleBytes s.race s.draws (slotAddr s) (memRead s.mem (slotAddr s) s.params.profile.pageSizeBytes)

/-- The cache-transfer unit WR_LOAD sends: the page's bytes, then the pad (R127, R197). -/
def loadUnit (s : State) : List Byte :=
  slotData s ++ fill s.params.profile.spareBytes s.params.profile.padValue

/-- RD_CACHE's store, R192: scratch takes the response, and its first `page_size_bytes` bytes go to the page's slot,
with R350's races settled: a byte the host wrote there may stay, and a host read that raced may have seen the new byte. -/
def storePage (r : List Byte) (s : State) : State :=
  { s with
    seq := { s.seq with scratch := r }
    mem := memWrite s.mem (slotAddr s)
      (settleBytes s.race s.draws (slotAddr s) (r.take s.params.profile.pageSizeBytes))
    racedReads := s.racedReads.map (RacedRead.afterStore (slotAddr s) (r.take s.params.profile.pageSizeBytes))
    draws := s.draws + 1 }

/-- How the busy command uses buffer slots. -/
inductive SlotUse where
  | noSlots
  | reads (count : Nat)
  | programs (count : Nat)
  deriving DecidableEq, Repr

/-- The slots of the command in `st.word` (R73, R350). -/
def slotUse (s : State) : SlotUse :=
  match decodeCommand s.seq.word with
  | .ok .readPage => .reads 1
  | .ok .readRange => .reads s.regs.pageCount.toNat
  | .ok .programPage => .programs 1
  | .ok .programRange => .programs s.regs.pageCount.toNat
  | _ => .noSlots

/-- Address `a` lies in one of the slots `lo`, …, `hi - 1`. -/
def inSlots (s : State) (lo hi a : Nat) : Bool :=
  decide (s.regs.bufAddr.toNat + lo * s.params.profile.pageSizeBytes ≤ a) &&
  decide (a < s.regs.bufAddr.toNat + hi * s.params.profile.pageSizeBytes)

/-- A host write at `a` breaks R350: the value that then competes for the byte, the host's `b` in a slot a read has yet
to fill, the old byte in a program's slot. -/
def writeRace (s : State) (a : Nat) (b : Byte) : Option Byte :=
  if s.regs.busy then
    match slotUse s with
    | .noSlots => none
    | .reads c => if inSlots s s.regs.pagesDone.toNat c a then some b else none
    | .programs c => if inSlots s 0 c a then some (memByte s.mem a) else none
  else none

/-- A host read at `a` breaks R350: the slot is one a read has yet to fill. -/
def readRaces (s : State) (a : Nat) : Bool :=
  s.regs.busy &&
  (match slotUse s with
   | .reads c => inSlots s s.regs.pagesDone.toNat c a
   | .programs _ => false
   | .noSlots => false)

/-- What a raced host read saw (R350, I16): the old byte, or by a free choice the new one where the command has stored one.
Nothing is settled while the running command may still store the byte (log 8). -/
def racedReadSaw (s : State) (e : RacedRead) : Option Byte :=
  match e.new with
  | some b => some (if Config.racePick e.draw e.addr % 2 = 0 then e.old else b)
  | none => if readRaces s e.addr then none else some e.old

/-- The register at an offset of the window, R23; nothing at a reserved offset (R43). -/
def regAt (off : Nat) : Option Reg :=
  match off with
  | 0x00 => some .ctrl
  | 0x04 => some .status
  | 0x08 => some .cmd
  | 0x0C => some .startPage
  | 0x10 => some .pageCount
  | 0x14 => some .bufAddr
  | 0x18 => some .bufLen
  | 0x1C => some .maxAttempts
  | 0x20 => some .pollDelay
  | 0x24 => some .regArg
  | 0x28 => some .result
  | 0x2C => some .failPage
  | 0x30 => some .pagesDone
  | 0x34 => some .pollCount
  | 0x38 => some .txnCount
  | 0x3C => some .statusRaw
  | 0x40 => some .idMfr
  | 0x44 => some .idDev
  | 0x48 => some .eccCorrCount
  | _ => none

/-- The page a poll's errors carry, R163: `st.cur` in page commands, none for POLL and RESET. -/
def pollPage (s : State) : Option Nat :=
  match s.seq.ret with
  | .poll => none
  | .reset => none
  | .read => some s.seq.cur
  | .prog => some s.seq.cur
  | .erase => some s.seq.cur

end Sys2Proof.Machine
end

