-- ==== Sys2Proof/Machine/Flags.lean ====
section
/-! DEFINITION. The status fields and the decoder (R122, R123, R161, R162), the error codes (R300), and the packed
registers as the host reads them: CTRL (R24), STATUS (R25) with the interrupt (R315), REG_ARG (R33), RESULT (R34). -/

namespace Sys2Proof.Machine

/-! ### Status fields (R122) -/

/-- `busy(s)`. -/
def statusBusy (P : Profile) (b : Byte) : Bool := decide (b &&& P.busyMask ≠ 0)

/-- `wel(s)`; no rule decodes it. -/
def statusWel (P : Profile) (b : Byte) : Bool := decide (b &&& P.welMask ≠ 0)

/-- `efail(s)`. -/
def statusEfail (P : Profile) (b : Byte) : Bool := decide (b &&& P.efailMask ≠ 0)

/-- `pfail(s)`. -/
def statusPfail (P : Profile) (b : Byte) : Bool := decide (b &&& P.pfailMask ≠ 0)

/-- `eccf(s)`. -/
def eccField (P : Profile) (b : Byte) : Nat := ((b &&& P.eccMask) >>> P.eccShift).toNat

/-- `sev(s)`: a value the map does not name is UNCORRECTABLE. -/
def severity (P : Profile) (b : Byte) : Severity := (P.eccMap.lookup (eccField P b)).getD .uncorrectable

/-- The 2-bit encoding of a severity, R123. -/
def sevCode (v : Severity) : Nat :=
  match v with
  | .noError => 0
  | .corrected => 1
  | .uncorrectable => 2

/-- The higher of two severities, R123. -/
def sevMax (u v : Severity) : Severity := if sevCode u ≤ sevCode v then v else u

/-! ### The decoder (R161, R162) -/

/-- The outcome of one status decode, R161. -/
inductive Decoded where
  | busy
  | fail (e : ErrCode)
  | ready (v : Severity)
  deriving DecidableEq, Repr

/-- `decode(s)`'s outcome, R161 and R162: busy, erase-fail, program-fail, ECC, in this order; `fatal` is
CTRL.ECC_CORR_FATAL. -/
def decodeOutcome (P : Profile) (fatal : Bool) (b : Byte) : Decoded :=
  if statusBusy P b then .busy
  else if statusEfail P b then .fail .eraseFailure
  else if statusPfail P b then .fail .programFailure
  else
    match severity P b with
    | .uncorrectable => .fail .uncorrectableEcc
    | .corrected => if fatal then .fail .correctedEccFatal else .ready .corrected
    | .noError => .ready .noError

/-- The decode reaches the ECC field: busy, erase-fail and program-fail are all clear (R161). -/
def reachesEcc (P : Profile) (b : Byte) : Bool := !statusBusy P b && !statusEfail P b && !statusPfail P b

/-- ECC_CORR_COUNT after one more CORRECTED decode, modulo 2^32; other severities leave it (R162). -/
def bumpCorrected (v : Severity) (c : Word) : Word :=
  match v with
  | .noError => c
  | .corrected => c + 1
  | .uncorrectable => c

/-- The register writes of `decode(s)`, R162. -/
def decodeRegs (P : Profile) (b : Byte) (r : Regs) : Regs :=
  if reachesEcc P b then
    { r with
      statusRaw := b
      lastEcc := severity P b
      eccMax := sevMax r.eccMax (severity P b)
      eccCorrCount := bumpCorrected (severity P b) r.eccCorrCount }
  else { r with statusRaw := b }

/-- The state after `decode(s)`. -/
def decodeStatus (b : Byte) (s : State) : State := { s with regs := decodeRegs s.params.profile b s.regs }

/-! ### Error codes (R300) -/

/-- `RESULT.ERR_CODE`'s number. -/
def errCodeNumber (e : ErrCode) : Nat :=
  match e with
  | .none => 0
  | .channelError => 1
  | .timeout => 2
  | .eraseFailure => 3
  | .programFailure => 4
  | .uncorrectableEcc => 5
  | .invalidRange => 6
  | .identityMismatch => 7
  | .illegalCommand => 8
  | .correctedEccFatal => 9

/-! ### Packed registers -/

/-- The interrupt output, R315: `irq = CTRL.IRQ_EN & STATUS.DONE`. -/
def irq (s : State) : Bool := s.regs.irqEn && s.regs.done

/-- CTRL as read, R24. -/
def ctrlWord (s : State) : Word := BitVec.ofNat 32 (s.regs.irqEn.toNat + 2 * s.regs.eccCorrFatal.toNat)

/-- STATUS as read, R25. -/
def statusWord (s : State) : Word :=
  BitVec.ofNat 32
    (s.regs.busy.toNat + 2 * s.regs.done.toNat + 4 * s.regs.err.toNat + 8 * s.regs.ovr.toNat
      + 16 * sevCode s.regs.eccMax + 64 * sevCode s.regs.lastEcc + 256 * (irq s).toNat)

/-- REG_ARG as read, R33. -/
def regArgWord (s : State) : Word := BitVec.ofNat 32 (s.regs.regAddr.toNat + 256 * s.regs.regValue.toNat)

/-- RESULT as read, R34. -/
def resultWord (s : State) : Word := BitVec.ofNat 32 (errCodeNumber s.regs.errCode + 256 * s.regs.pageValid.toNat)

end Sys2Proof.Machine
end

