-- ==== Sys2Proof/Machine/Sequence.lean ====
section
/-! DEFINITION. What the commands share: starting on a page range (R190, R195, R232, R236), the end of a page (R234), a
poll's Ready (R165), and one attempt of a poll (R163). -/

namespace Sys2Proof.Machine

/-- The START step of a buffer command over `count` pages: the range check (R230, R231), then the first page's phase;
an empty range ends at once (R232, R236). -/
def startPages (count : Nat) (first : Phase) (s : State) : State :=
  if rangeOk s s.regs.startPage.toNat count then
    if count = 0 then finishOk (setCur s.regs.startPage.toNat s)
    else setPhase first (setCur s.regs.startPage.toNat s)
  else raiseError .invalidRange none s

/-- The counting part of `page_complete()`, R234. -/
def countPage (s : State) : State :=
  { s with
    regs := { s.regs with pagesDone := s.regs.pagesDone + 1 }
    seq := { s.seq with cur := s.seq.cur + 1 } }

/-- `page_complete()`, R234. -/
def pageComplete (s : State) : State :=
  if cmdCode s.seq.word = 0x10 ∨ cmdCode s.seq.word = 0x11 then finishOk (countPage s)
  else if s.regs.pagesDone + 1 = s.regs.pageCount then finishOk (countPage s)
  else if cmdCode s.seq.word = 0x20 then setPhase .rdSelect (countPage s)
  else setPhase .wrEnable (countPage s)

/-- `continue(st.ret)`, R165. -/
def continuePoll (s : State) : State :=
  match s.seq.ret with
  | .poll => finishOk s
  | .reset => finishOk s
  | .read => setPhase .rdCache s
  | .prog => pageComplete s
  | .erase => finishOk s

/-- What R163 does with a decode's outcome: another attempt after a delay while the budget lasts, TIMEOUT at its end
(R166), the reported failure, or Ready. -/
def pollDecide (o : Decoded) (s : State) : State :=
  match o with
  | .busy =>
    if s.regs.pollCount.toNat < s.regs.maxAttempts.toNat then setPhase .pollDelay s
    else raiseError .timeout (pollPage s) s
  | .fail e => raiseError e (pollPage s) s
  | .ready _ => continuePoll s

/-- A status byte received by a poll: decoded (R162), then acted on (R163). -/
def pollReceive (b : Byte) (s : State) : State :=
  pollDecide (decodeOutcome s.params.profile s.regs.eccCorrFatal b) (decodeStatus b s)

/-- One attempt of a poll, R163, with the status frame `i`: with the budget spent, TIMEOUT and no frame; else one more
status read. -/
def pollAttempt (i : Instr) (s : State) : State :=
  if s.regs.maxAttempts.toNat ≤ s.regs.pollCount.toNat then raiseError .timeout (pollPage s) s
  else sendFrame i (pollPage s) (fun r t => pollReceive (r.headD 0) t) (countAttempt s)

end Sys2Proof.Machine
end

