-- ==== Sys2Proof/Machine/DeviceControl.lean ====
section
/-! DEFINITION. The device-control instructions, 43_device_control.md: RESET (R260), IDENTIFY (R262), SET_STATUS (R264),
WRITE_ENABLE (R266), WRITE_DISABLE (R268), and their frames in the phases RST_SEND and SINGLE (R269). F_WRITE_ENABLE
stands in Transfer.lean and F_GET_STATUS in Poller.lean. -/

namespace Sys2Proof.Machine

/-- RESET, R260: its START step. It does not reset the NFC's registers. -/
def execReset (s : State) : Host.Outcome State Fault Refusal := .next (setPhase .rstSend s)

/-- IDENTIFY, R262: its START step. -/
def execIdentify (s : State) : Host.Outcome State Fault Refusal := .next (setPhase .single s)

/-- SET_STATUS, R264: its START step. -/
def execSetStatus (s : State) : Host.Outcome State Fault Refusal := .next (setPhase .single s)

/-- WRITE_ENABLE, R266: its START step. -/
def execWriteEnable (s : State) : Host.Outcome State Fault Refusal := .next (setPhase .single s)

/-- WRITE_DISABLE, R268: its START step. -/
def execWriteDisable (s : State) : Host.Outcome State Fault Refusal := .next (setPhase .single s)

/-- F_RESET, R132, sent in RST_SEND (R260): the poll to ready follows. -/
def execFReset (s : State) : Host.Outcome State Fault Refusal :=
  match s.seq.phase with
  | .rstSend => .next (sendFrame .fReset none (fun _ t => beginPoll .reset t) s)
  | _ => .refused .frameOutsideItsPhase

/-- F_SET_STATUS(a, v), R131, sent in SINGLE (R264). -/
def execFSetStatus (a v : Byte) (s : State) : Host.Outcome State Fault Refusal :=
  match s.seq.phase with
  | .single => .next (sendFrame (.fSetStatus a v) none (fun _ t => finishOk t) s)
  | _ => .refused .frameOutsideItsPhase

/-- F_WRITE_DISABLE, R134, sent in SINGLE (R268). -/
def execFWriteDisable (s : State) : Host.Outcome State Fault Refusal :=
  match s.seq.phase with
  | .single => .next (sendFrame .fWriteDisable none (fun _ t => finishOk t) s)
  | _ => .refused .frameOutsideItsPhase

/-- F_READ_ID, R135, sent in SINGLE (R262): on an error the ids keep their old values. -/
def execFReadId (s : State) : Host.Outcome State Fault Refusal :=
  match s.seq.phase with
  | .single => .next (sendFrame .fReadId none (fun r t => finishOk (setIds r t)) s)
  | _ => .refused .frameOutsideItsPhase

end Sys2Proof.Machine
end

