-- ==== Sys2Proof/Machine/Poller.lean ====
section
/-! DEFINITION. The Status Poller's instructions, 40_status_poller.md: POLL (R168), GET_STATUS (R170) and the frame
F_GET_STATUS (R130) in the phases that send it, POLL_READ (R163) and SINGLE (R170). -/

namespace Sys2Proof.Machine

/-- POLL, R168: its START step starts a poll. -/
def execPoll (s : State) : Host.Outcome State Fault Refusal := .next (beginPoll .poll s)

/-- GET_STATUS, R170: its START step. -/
def execGetStatus (s : State) : Host.Outcome State Fault Refusal := .next (setPhase .single s)

/-- F_GET_STATUS, R130: an attempt of a poll (R163), or GET_STATUS's one undecoded read (R170). -/
def execFGetStatus (a : Byte) (s : State) : Host.Outcome State Fault Refusal :=
  match s.seq.phase with
  | .pollRead => .next (pollAttempt (.fGetStatus a) s)
  | .single => .next (sendFrame (.fGetStatus a) none (fun r t => finishOk (setStatusRaw (r.headD 0) t)) s)
  | _ => .refused .frameOutsideItsPhase

end Sys2Proof.Machine
end

