-- ==== Sys2Proof/Machine/Sequential.lean ====
section
/-! DEFINITION. The Sequential Accessor's instructions, 42_sequential_access.md: READ_RANGE (R232) and PROGRAM_RANGE
(R236). Each page then runs the Page Transfer Engine's frames, and `pageComplete` (R234) goes on to the next one. -/

namespace Sys2Proof.Machine

/-- READ_RANGE, R232: its START step. -/
def execReadRange (s : State) : Host.Outcome State Fault Refusal :=
  .next (startPages s.regs.pageCount.toNat .rdSelect s)

/-- PROGRAM_RANGE, R236: its START step. -/
def execProgramRange (s : State) : Host.Outcome State Fault Refusal :=
  .next (startPages s.regs.pageCount.toNat .wrEnable s)

end Sys2Proof.Machine
end

