-- ==== Sys2Proof/Machine/Transfer.lean ====
section
/-! DEFINITION. The Page Transfer Engine's instructions, 41_page_transfer.md: READ_PAGE (R190), PROGRAM_PAGE (R195),
ERASE_BLOCK (R200), and the frames of their paths (R191, R192, R196 to R198, R201). -/

namespace Sys2Proof.Machine

/-- READ_PAGE, R190: its START step. -/
def execReadPage (s : State) : Host.Outcome State Fault Refusal := .next (startPages 1 .rdSelect s)

/-- PROGRAM_PAGE, R195: its START step. -/
def execProgramPage (s : State) : Host.Outcome State Fault Refusal := .next (startPages 1 .wrEnable s)

/-- ERASE_BLOCK, R200: its START step; the buffer registers are not read. -/
def execEraseBlock (s : State) : Host.Outcome State Fault Refusal :=
  .next
    (if s.regs.startPage.toNat < s.params.profile.pagesTotal then
      setPhase .wrEnable (setCur s.regs.startPage.toNat s)
    else raiseError .invalidRange none s)

/-- F_PAGE_READ_TO_CACHE(p), R125, sent in RD_SELECT (R191). -/
def execFPageReadToCache (p : Nat) (s : State) : Host.Outcome State Fault Refusal :=
  match s.seq.phase with
  | .rdSelect =>
    frameNext (.fPageReadToCache p) s
      (sendFrame (.fPageReadToCache p) (some s.seq.cur) (fun _ t => beginPoll .read t) s)
  | _ => .refused .frameOutsideItsPhase

/-- F_READ_FROM_CACHE, R126, sent in RD_CACHE (R192): the page's store and its end are in the same step. -/
def execFReadFromCache (s : State) : Host.Outcome State Fault Refusal :=
  match s.seq.phase with
  | .rdCache =>
    if slotFits s then
      .next (sendFrame .fReadFromCache (some s.seq.cur) (fun r t => pageComplete (storePage r t)) s)
    else .fault .bufferOutOfRange
  | _ => .refused .frameOutsideItsPhase

/-- F_PROGRAM_LOAD, R127, sent in WR_LOAD (R197): `d` is the unit read from the page's slot with its pad. -/
def execFProgramLoad (d : List Byte) (s : State) : Host.Outcome State Fault Refusal :=
  match s.seq.phase with
  | .wrLoad =>
    if slotFits s then
      frameNext (.fProgramLoad d) s
        (sendFrame (.fProgramLoad d) (some s.seq.cur) (fun _ t => setPhase .wrExec t) (countDraw (setScratch d s)))
    else .fault .bufferOutOfRange
  | _ => .refused .frameOutsideItsPhase

/-- F_PROGRAM_EXECUTE(p), R128, sent in WR_EXEC (R198). -/
def execFProgramExecute (p : Nat) (s : State) : Host.Outcome State Fault Refusal :=
  match s.seq.phase with
  | .wrExec =>
    frameNext (.fProgramExecute p) s
      (sendFrame (.fProgramExecute p) (some s.seq.cur) (fun _ t => beginPoll .prog t) s)
  | _ => .refused .frameOutsideItsPhase

/-- F_BLOCK_ERASE(p), R129, sent in ER_ERASE (R201). -/
def execFBlockErase (p : Nat) (s : State) : Host.Outcome State Fault Refusal :=
  match s.seq.phase with
  | .erErase =>
    frameNext (.fBlockErase p) s
      (sendFrame (.fBlockErase p) (some s.seq.cur) (fun _ t => beginPoll .erase t) s)
  | _ => .refused .frameOutsideItsPhase

/-- F_WRITE_ENABLE, R133: the first frame of a program or an erase, in WR_ENABLE (R196), or WRITE_ENABLE's one frame,
in SINGLE (R266). The latch is not checked. -/
def execFWriteEnable (s : State) : Host.Outcome State Fault Refusal :=
  match s.seq.phase with
  | .wrEnable =>
    .next (sendFrame .fWriteEnable (some s.seq.cur)
      (fun _ t => setPhase (if cmdCode t.seq.word = 0x12 then .erErase else .wrLoad) t) s)
  | .single => .next (sendFrame .fWriteEnable none (fun _ t => finishOk t) s)
  | _ => .refused .frameOutsideItsPhase

end Sys2Proof.Machine
end

