-- ==== Sys2Proof/Machine/Dispatch.lean ====
section
/-! DEFINITION. One arm per row of the opcode table. -/

namespace Sys2Proof.Machine

def exec (i : Instr) (s : State) : Host.Outcome State Fault Refusal :=
  match i with
  | .reset => Sys2Proof.Machine.execReset s
  | .identify => Sys2Proof.Machine.execIdentify s
  | .getStatus => Sys2Proof.Machine.execGetStatus s
  | .setStatus => Sys2Proof.Machine.execSetStatus s
  | .writeEnable => Sys2Proof.Machine.execWriteEnable s
  | .writeDisable => Sys2Proof.Machine.execWriteDisable s
  | .poll => Sys2Proof.Machine.execPoll s
  | .readPage => Sys2Proof.Machine.execReadPage s
  | .programPage => Sys2Proof.Machine.execProgramPage s
  | .eraseBlock => Sys2Proof.Machine.execEraseBlock s
  | .readRange => Sys2Proof.Machine.execReadRange s
  | .programRange => Sys2Proof.Machine.execProgramRange s
  | .fPageReadToCache p => Sys2Proof.Machine.execFPageReadToCache p s
  | .fReadFromCache => Sys2Proof.Machine.execFReadFromCache s
  | .fProgramLoad d => Sys2Proof.Machine.execFProgramLoad d s
  | .fProgramExecute p => Sys2Proof.Machine.execFProgramExecute p s
  | .fBlockErase p => Sys2Proof.Machine.execFBlockErase p s
  | .fGetStatus a => Sys2Proof.Machine.execFGetStatus a s
  | .fSetStatus a v => Sys2Proof.Machine.execFSetStatus a v s
  | .fReset => Sys2Proof.Machine.execFReset s
  | .fWriteEnable => Sys2Proof.Machine.execFWriteEnable s
  | .fWriteDisable => Sys2Proof.Machine.execFWriteDisable s
  | .fReadId => Sys2Proof.Machine.execFReadId s

end Sys2Proof.Machine
end

