-- ==== Sys2Proof/Machine/HostBus.lean ====
section
/-! DEFINITION. The host's side: register reads (R44) and writes (R23 to R46), buffer accesses (R70, R350), and the NFC
reset input, between steps or during a Transceive (R340). -/

namespace Sys2Proof.Machine

/-- The value of a register as the host reads it, R23. CMD reads 0 (R26). -/
def readReg (s : State) (r : Reg) : Word :=
  match r with
  | .ctrl => ctrlWord s
  | .status => statusWord s
  | .cmd => 0
  | .startPage => s.regs.startPage
  | .pageCount => s.regs.pageCount
  | .bufAddr => s.regs.bufAddr
  | .bufLen => s.regs.bufLen
  | .maxAttempts => s.regs.maxAttempts
  | .pollDelay => s.regs.pollDelay
  | .regArg => regArgWord s
  | .result => resultWord s
  | .failPage => s.regs.failPage
  | .pagesDone => s.regs.pagesDone
  | .pollCount => s.regs.pollCount
  | .txnCount => s.regs.txnCount
  | .statusRaw => s.regs.statusRaw.setWidth 32
  | .idMfr => s.regs.idMfr
  | .idDev => s.regs.idDev
  | .eccCorrCount => s.regs.eccCorrCount

/-- The value at a register offset: a reserved offset reads 0 (R43). -/
def readOffset (s : State) (off : Nat) : Word :=
  match regAt off with
  | some r => readReg s r
  | none => 0

/-- A write to a parameter register: taken while idle, ignored with OVR set while busy (R46). -/
def writeParam (s : State) (r : Regs) : State := if s.regs.busy then setOvr s else { s with regs := r }

/-- BUF_ADDR keeps its low BUF_ADDR_BITS bits, R29. -/
def bufAddrField (c : Params) (v : Word) : Word := BitVec.ofNat 32 (v.toNat % c.bufSize)

/-- A write to CTRL, R24: at any time, reserved bits ignored. -/
def writeCtrl (v : Word) (s : State) : State :=
  { s with regs := { s.regs with irqEn := v.getLsbD 0, eccCorrFatal := v.getLsbD 1 } }

/-- A write to STATUS, R25: at any time, 1 clears DONE (bit 1) and OVR (bit 3), nothing else. -/
def writeStatus (v : Word) (s : State) : State :=
  { s with regs := { s.regs with done := s.regs.done && !v.getLsbD 1, ovr := s.regs.ovr && !v.getLsbD 3 } }

/-- A write to CMD, R26: accepted while idle (R45), ignored with OVR set while busy (R46). -/
def writeCmd (v : Word) (s : State) : State := if s.regs.busy then setOvr s else acceptCommand v s

/-- A host write to a register, R23 to R46. Writes to read-only registers are ignored (R43). -/
def writeReg (r : Reg) (v : Word) (s : State) : State :=
  match r with
  | .ctrl => writeCtrl v s
  | .status => writeStatus v s
  | .cmd => writeCmd v s
  | .startPage => writeParam s { s.regs with startPage := v }
  | .pageCount => writeParam s { s.regs with pageCount := v }
  | .bufAddr => writeParam s { s.regs with bufAddr := bufAddrField s.params v }
  | .bufLen => writeParam s { s.regs with bufLen := v }
  | .maxAttempts => writeParam s { s.regs with maxAttempts := v }
  | .pollDelay => writeParam s { s.regs with pollDelay := v }
  | .regArg => writeParam s { s.regs with regAddr := v.extractLsb' 0 8, regValue := v.extractLsb' 8 8 }
  | .result => s
  | .failPage => s
  | .pagesDone => s
  | .pollCount => s
  | .txnCount => s
  | .statusRaw => s
  | .idMfr => s
  | .idDev => s
  | .eccCorrCount => s

/-- A host write at a register offset: a reserved offset ignores it (R43). -/
def writeOffset (off : Nat) (v : Word) (s : State) : State :=
  match regAt off with
  | some r => writeReg r v s
  | none => s

/-- A register access goes on to `t` if it is a whole aligned word (R74) inside the window (R70). -/
def regAccess (off width : Nat) (t : State) : Host.Outcome State Fault Refusal :=
  if width = 4 ∧ off % 4 = 0 then
    if off < 256 then .next t else .fault .registerOutsideWindow
  else .refused .registerAccessNotWord

/-- One turn of the host's loop `wait_done`, R140: it reads STATUS, and while DONE is 0 the NFC takes its next step and
the host reads again (log 29). -/
def waitDoneStep (s : State) : State :=
  { s with
    readData := some (readReg s .status)
    inputs := if s.regs.done then s.inputs else .nfc :: .waitDone :: s.inputs }

/-- The host's raced reads after a read at `a` (R350): one that races is kept with the byte that stands there. -/
def racedAfterRead (s : State) (a : Nat) : List RacedRead :=
  if readRaces s a then s.racedReads ++ [{ addr := a, old := memByte s.mem a, new := none, draw := s.draws }]
  else s.racedReads

/-- The host reads a byte of buffer memory: it gets the byte, or where the read breaks R350 the old byte or the new one,
which is settled when the command stores it or ends (`racedReadSaw`; log 8). -/
def hostBufRead (a : Nat) (s : State) : State :=
  { s with
    readData := if readRaces s a then none else some ((memByte s.mem a).setWidth 32)
    racedReads := racedAfterRead s a
    draws := s.draws + 1 }

/-- The race entries that a racing host write at `a` leaves: in a read's slot the host's earlier byte there is gone, in a
program's slot every earlier value still competes. -/
def raceKept (s : State) (a : Nat) : List (Nat × Byte) :=
  match slotUse s with
  | .reads _ => s.race.filter (fun e => e.1 != a)
  | .programs _ => s.race
  | .noSlots => s.race

/-- The race list after a host write at `a` (R350). -/
def raceAfterWrite (s : State) (a : Nat) (b : Byte) : List (Nat × Byte) :=
  match writeRace s a b with
  | some v => (a, v) :: raceKept s a
  | none => s.race

/-- The host writes a byte of buffer memory; R350's races are remembered until the command has used the byte. -/
def hostBufWrite (a : Nat) (b : Byte) (s : State) : State :=
  { s with mem := memPut s.mem a b, race := raceAfterWrite s a b }

/-- A buffer access goes on to `t` if the address exists (R70). -/
def bufAccess (a : Nat) (s t : State) : Host.Outcome State Fault Refusal :=
  if a < s.params.bufSize then .next t else .fault .bufferOutOfRange

/-- What the reference device makes of a frame that an NFC reset cut off: all, part or none of it arrived (R340).
DESIGN CHOICE (log 9; R95 and R340 are silent): the cut-off Transceive takes a transaction number of `chan_err` exactly
when at least one byte of it arrived, and the bytes that arrived are taken as a frame of just those bytes. -/
def rdCut (P : Profile) (rd : RefDevice) (tx : List Byte) : RefDevice :=
  match tx with
  | [] => rd
  | b :: bs => (rdTransaction P rd (b :: bs)).2

/-- What answers the channel after a frame was cut off: how much of the frame arrived is free. -/
def cutDevice (P : Profile) (draw : Nat) (tx : List Byte) (d : Device) : Device :=
  match d with
  | .oracle answers => .oracle answers
  | .reference rd => .reference (rdCut P rd (tx.take (Config.bytesReached draw)))

/-- The frame that an NFC reset cut off, as the channel keeps it (R340, I6; log 9). -/
def cutFrame (i : Instr) (s : State) : State :=
  { s with chan :=
    { sent := s.chan.sent ++
        [{ tx := encode s.params.profile i, n := respLen s.params.profile i, cut := true }]
      dev := cutDevice s.params.profile s.draws (encode s.params.profile i) s.chan.dev } }

end Sys2Proof.Machine
end

