-- ==== Sys2Proof/Machine/Controller.lean ====
section
/-! DEFINITION. The controller's step by phase (R47), the environment's moves (R304, R361), and how a row of the opcode
table is put where the next step fetches it (log 18). -/

namespace Sys2Proof.Machine

/-- The frame of phase SINGLE: that of the command in `st.word[7:0]` (R269). -/
def singleFrame (s : State) : Option Instr :=
  match cmdCode s.seq.word with
  | 0x02 => some .fReadId
  | 0x03 => some (.fGetStatus s.params.profile.statusRegAddr)
  | 0x04 => some (.fSetStatus s.regs.regAddr s.regs.regValue)
  | 0x05 => some .fWriteEnable
  | 0x06 => some .fWriteDisable
  | _ => none

/-- The frame that the current phase sends (R163, R191, R192, R196 to R198, R201, R260, R269). -/
def phaseFrame (s : State) : Option Instr :=
  match s.seq.phase with
  | .idle => none
  | .start => none
  | .pollDelay => none
  | .pollRead => some (.fGetStatus s.params.profile.statusRegAddr)
  | .rdSelect => some (.fPageReadToCache s.seq.cur)
  | .rdCache => some .fReadFromCache
  | .wrEnable => some .fWriteEnable
  | .wrLoad => some (.fProgramLoad (loadUnit s))
  | .wrExec => some (.fProgramExecute s.seq.cur)
  | .erErase => some (.fBlockErase s.seq.cur)
  | .rstSend => some .fReset
  | .single => singleFrame s

/-- The step of a phase that sends a frame. -/
def frameStep (s : State) : Host.Outcome State Fault Refusal :=
  match phaseFrame s with
  | some i => exec i s
  | none => .refused .noFrameForWord

/-- The step of phase START: decode `st.word` and run the command's START step, or raise ILLEGAL_COMMAND (R111, R112). -/
def startStep (s : State) : Host.Outcome State Fault Refusal :=
  match decodeCommand s.seq.word with
  | .ok i => exec i s
  | .error _ => .next (raiseError .illegalCommand none s)

/-- One controller step, R47: IDLE waits, POLL_DELAY changes only the phase (R164). -/
def controllerStep (s : State) : Host.Outcome State Fault Refusal :=
  match s.seq.phase with
  | .idle => .next s
  | .start => startStep s
  | .pollDelay => .next (setPhase .pollRead s)
  | .pollRead => frameStep s
  | .rdSelect => frameStep s
  | .rdCache => frameStep s
  | .wrEnable => frameStep s
  | .wrLoad => frameStep s
  | .wrExec => frameStep s
  | .erErase => frameStep s
  | .rstSend => frameStep s
  | .single => frameStep s

/-- The frame whose Transceive an NFC reset can cut off in this state: the phase's, if its step would send it; with the
poll budget spent, POLL_READ sends none (R163). -/
def frameInFlight (s : State) : Option Instr :=
  if s.seq.phase = .pollRead ∧ s.regs.maxAttempts.toNat ≤ s.regs.pollCount.toNat then none else phaseFrame s

/-- NFC reset during the Transceive of the step in progress (R340): nothing of it is recorded. -/
def resetInTransceive (s : State) : State :=
  match frameInFlight s with
  | some i => nfcReset (cutFrame i s)
  | none => nfcReset s

/-- One move of the environment (R304, R361; log 3). -/
def inputStep (e : Input) (s : State) : Host.Outcome State Fault Refusal :=
  match e with
  | .nfc => controllerStep s
  | .regWrite off width v => regAccess off width (writeOffset off v s)
  | .regRead off width => regAccess off width { s with readData := some (readOffset s off) }
  | .bufWrite a b => bufAccess a s (hostBufWrite a b s)
  | .bufRead a => bufAccess a s (hostBufRead a s)
  | .waitDone => .next (waitDoneStep s)
  | .reset => .next (nfcReset s)
  | .resetInTransceive => .next (resetInTransceive s)

/-- One step of the machine: the environment's next move, or the controller's where nothing is planned (R360: the NFC
is not starved). A machine built with ill-formed parameters takes no step (R21). -/
def machineStep (s : State) : Host.Outcome State Fault Refusal :=
  if s.params.wf then
    match s.inputs with
    | [] => controllerStep s
    | e :: rest => inputStep e { s with inputs := rest }
  else .refused .illFormedProfile

/-! ### Placing a row of the opcode table (log 18) -/

/-- A busy machine in phase `ph` of the command with word `w`, whose controller moves next. -/
def staged (w : Word) (ph : Phase) (s : State) : State :=
  setPhase ph { acceptCommand w s with inputs := .nfc :: s.inputs }

/-- As `staged`, at the first page of the command's range. -/
def stagedPage (w : Word) (ph : Phase) (s : State) : State := setCur s.regs.startPage.toNat (staged w ph s)

/-- Puts a frame where the next controller step sends it: the phase that sends it, and what that phase builds the frame
from (`st.cur`, REG_ARG, the page's slot, the profile's status address and pad value). -/
def placeFrame (i : Instr) (s : State) : State :=
  match i with
  | .fPageReadToCache p => setCur p (staged 0x10 .rdSelect s)
  | .fReadFromCache => stagedPage 0x10 .rdCache s
  | .fProgramLoad d =>
    let t := stagedPage 0x11 .wrLoad s
    { t with
      mem := memWrite t.mem (slotAddr t) (d.take t.params.profile.pageSizeBytes)
      params := { t.params with profile := { t.params.profile with
        padValue := (d.drop t.params.profile.pageSizeBytes).headD t.params.profile.padValue } } }
  | .fProgramExecute p => setCur p (staged 0x11 .wrExec s)
  | .fBlockErase p => setCur p (staged 0x12 .erErase s)
  | .fGetStatus a =>
    let t := staged 0x03 .single s
    { t with params := { t.params with profile := { t.params.profile with statusRegAddr := a } } }
  | .fSetStatus a v =>
    let t := staged 0x04 .single s
    { t with regs := { t.regs with regAddr := a, regValue := v } }
  | .fReset => staged 0x01 .rstSend s
  | .fWriteEnable => staged 0x05 .single s
  | .fWriteDisable => staged 0x06 .single s
  | .fReadId => staged 0x02 .single s
  | .reset => staged 0x01 .start s
  | .identify => staged 0x02 .start s
  | .getStatus => staged 0x03 .start s
  | .setStatus => staged 0x04 .start s
  | .writeEnable => staged 0x05 .start s
  | .writeDisable => staged 0x06 .start s
  | .poll => staged 0x07 .start s
  | .readPage => staged 0x10 .start s
  | .programPage => staged 0x11 .start s
  | .eraseBlock => staged 0x12 .start s
  | .readRange => staged 0x20 .start s
  | .programRange => staged 0x21 .start s

/-- `State.withFetchWord`'s work: a command word is accepted (R45) and stands in phase START; a frame is staged; bits
that are no frame of the profile place nothing. -/
def placeTableWord (s : State) (nbits w : Nat) : State :=
  if nbits = 32 then staged (BitVec.ofNat 32 w) .start s
  else
    match decodeTableWordFor s.params.profile nbits w with
    | some i => placeFrame i s
    | none => s

end Sys2Proof.Machine
end

