-- ==== Sys2Proof/Machine/Step.lean ====
section
/-! DEFINITION. One step, and placing an instruction where the next step fetches it. -/

namespace Sys2Proof.Machine

/-- One step of the machine (R304, R360): see `machineStep`. -/
def step (s : State) : Host.Outcome State Fault Refusal := Sys2Proof.Machine.machineStep s

/-- `s` with the table's row `w` placed so that the very next step runs it (log 18): see `placeTableWord`. -/
def State.withFetchWord (s : State) (nbits w : Nat) : State := Sys2Proof.Machine.placeTableWord s nbits w

end Sys2Proof.Machine
end

