-- ==== Sys2Proof/Machine/HostProgram.lean ====
section
/-! DEFINITION. The host's notation, R140, and its pseudo-instructions, R141, as moves of the environment. A host program
is data for `State.inputs` (log 3, log 29); no rule of the NFC depends on it. -/

namespace Sys2Proof.Machine

/-- The offset of a register, R23. -/
def regOffset (r : Reg) : Nat :=
  match r with
  | .ctrl => 0x00
  | .status => 0x04
  | .cmd => 0x08
  | .startPage => 0x0C
  | .pageCount => 0x10
  | .bufAddr => 0x14
  | .bufLen => 0x18
  | .maxAttempts => 0x1C
  | .pollDelay => 0x20
  | .regArg => 0x24
  | .result => 0x28
  | .failPage => 0x2C
  | .pagesDone => 0x30
  | .pollCount => 0x34
  | .txnCount => 0x38
  | .statusRaw => 0x3C
  | .idMfr => 0x40
  | .idDev => 0x44
  | .eccCorrCount => 0x48

/-- `wr NAME, v`, R140. -/
def wr (r : Reg) (v : Word) : Input := .regWrite (regOffset r) 4 v

/-- `rd NAME -> x`, R140. -/
def rd (r : Reg) : Input := .regRead (regOffset r) 4

/-- `cmd c; wait_done`, R141. -/
def cmdAndWait (c : Word) : List Input := [wr .cmd c, .waitDone]

/-- The pseudo-instructions of R141. -/
inductive Pseudo where
  | reset
  | identify
  | getStatus
  | setStatus (a v : Byte)
  | wren
  | wrdi
  | poll
  | readPage (s a l : Word)
  | programPage (s a l : Word)
  | eraseBlock (s : Word)
  | readRange (s c a l : Word)
  | programRange (s c a l : Word)
  | budget (m d : Word)
  deriving DecidableEq, Repr

/-- The expansion of a pseudo-instruction, R141. -/
def expand (q : Pseudo) : List Input :=
  match q with
  | .reset => cmdAndWait 0x01
  | .identify => cmdAndWait 0x02
  | .getStatus => cmdAndWait 0x03
  | .setStatus a v => wr .regArg (v.setWidth 32 <<< 8 ||| a.setWidth 32) :: cmdAndWait 0x04
  | .wren => cmdAndWait 0x05
  | .wrdi => cmdAndWait 0x06
  | .poll => cmdAndWait 0x07
  | .readPage s a l => [wr .startPage s, wr .bufAddr a, wr .bufLen l] ++ cmdAndWait 0x10
  | .programPage s a l => [wr .startPage s, wr .bufAddr a, wr .bufLen l] ++ cmdAndWait 0x11
  | .eraseBlock s => wr .startPage s :: cmdAndWait 0x12
  | .readRange s c a l => [wr .startPage s, wr .pageCount c, wr .bufAddr a, wr .bufLen l] ++ cmdAndWait 0x20
  | .programRange s c a l => [wr .startPage s, wr .pageCount c, wr .bufAddr a, wr .bufLen l] ++ cmdAndWait 0x21
  | .budget m d => [wr .maxAttempts m, wr .pollDelay d]

/-- A host program of pseudo-instructions. -/
def hostProgram (qs : List Pseudo) : List Input := qs.flatMap expand

end Sys2Proof.Machine
end

