-- ==== Sys2Proof/Safety.lean ====
section
/-! DEFINITION. What claims are stated in: the invariant of the machine, in the terms of 10_state.md and R241, and what
counts as a step that goes on. -/

namespace Sys2Proof.Machine

/-- The step answers a next state. -/
def goesOn (o : Host.Outcome State Fault Refusal) : Bool :=
  match o with
  | .next _ => true
  | .fault _ => false
  | .refused _ => false

/-- The number of pages the accepted command is over: PAGE_COUNT for the range commands, else one (R230, R234). -/
def pagesWanted (s : State) : Nat :=
  if s.seq.word = 0x20 ∨ s.seq.word = 0x21 then s.regs.pageCount.toNat else 1

/-- The accepted command reads pages. -/
def readsPages (s : State) : Prop := s.seq.word = 0x10 ∨ s.seq.word = 0x20

/-- The accepted command programs pages. -/
def programsPages (s : State) : Prop := s.seq.word = 0x11 ∨ s.seq.word = 0x21

/-- The accepted command has a page to do, and the sequencer is at it: `st.cur` is START_PAGE plus the pages done, and
the range was checked (R230, R233, R241). -/
structure OnPage (s : State) : Prop where
  in_range : rangeOk s s.regs.startPage.toNat (pagesWanted s) = true
  cur_eq : s.seq.cur = s.regs.startPage.toNat + s.regs.pagesDone.toNat
  more : s.regs.pagesDone.toNat < pagesWanted s

/-- The accepted command is ERASE_BLOCK of a page the device has (R200). -/
structure Erasing (s : State) : Prop where
  word_eq : s.seq.word = 0x12
  cur_eq : s.seq.cur = s.regs.startPage.toNat
  in_range : s.seq.cur < s.params.profile.pagesTotal

/-- A poll's continuation belongs to the accepted command (R165). -/
def RetOk (s : State) : Prop :=
  match s.seq.ret with
  | .poll => s.seq.word = 0x07
  | .reset => s.seq.word = 0x01
  | .read => readsPages s ∧ OnPage s
  | .prog => programsPages s ∧ OnPage s
  | .erase => Erasing s

/-- What the phase says of the rest of the state (R47, R163, R191 to R201, R269). -/
def PhaseOk (s : State) : Prop :=
  match s.seq.phase with
  | .idle => True
  | .start => s.regs.pagesDone = 0
  | .pollRead => RetOk s ∧ (s.regs.pollCount.toNat < s.regs.maxAttempts.toNat ∨ s.regs.maxAttempts = 0 ∧ s.regs.pollCount = 0)
  | .pollDelay => RetOk s ∧ s.regs.pollCount.toNat < s.regs.maxAttempts.toNat
  | .rdSelect => readsPages s ∧ OnPage s
  | .rdCache => readsPages s ∧ OnPage s
  | .wrEnable => (programsPages s ∧ OnPage s) ∨ Erasing s
  | .wrLoad => programsPages s ∧ OnPage s
  | .wrExec => programsPages s ∧ OnPage s
  | .erErase => Erasing s
  | .rstSend => s.seq.word = 0x01
  | .single => s.seq.word = 0x02 ∨ s.seq.word = 0x03 ∨ s.seq.word = 0x04 ∨ s.seq.word = 0x05 ∨ s.seq.word = 0x06

/-- The invariant of the machine. -/
structure Inv (s : State) : Prop where
  /-- R6, R21. -/
  params_wf : s.params.wf = true
  /-- Buffer memory is in canonical form. -/
  mem_wf : memWf s.mem = true
  /-- Every listed byte lies in the address space (R70). -/
  mem_inside : ∀ c ∈ s.mem, c.1 < s.params.bufSize
  /-- R29. -/
  buf_addr_inside : s.regs.bufAddr.toNat < s.params.bufSize
  /-- R40. -/
  scratch_len : s.seq.scratch.length = s.params.profile.cu
  /-- R48. -/
  busy_iff : s.regs.busy = true ↔ s.seq.phase ≠ .idle
  /-- While a command runs, no outcome of it is recorded (R45, R310, R311). -/
  busy_clear : s.regs.busy = true → s.regs.done = false ∧ s.regs.errCode = .none ∧ s.regs.pageValid = false
  /-- R25: ERR is set by an end with `ERR_CODE ≠ 0`. -/
  err_iff : s.regs.err = true ↔ s.regs.errCode ≠ .none
  /-- R263, R300: code 7 is never written. -/
  no_mismatch : s.regs.errCode ≠ .identityMismatch
  /-- R35: FAIL_PAGE is 0 unless PAGE_VALID, and then it is a page of the device. -/
  fail_page : if s.regs.pageValid then s.regs.err = true ∧ s.regs.failPage.toNat < s.params.profile.pagesTotal
    else s.regs.failPage = 0
  /-- R25: ECC_MAX is the highest severity, so at least LAST_ECC. -/
  ecc_order : sevCode s.regs.lastEcc ≤ sevCode s.regs.eccMax
  /-- R47. -/
  phase_ok : PhaseOk s

/-- A move of the environment that the spec gives a step (R70, R72, R74): a whole aligned register word inside the
window, a buffer address that exists. -/
def legalInput (c : Params) (e : Input) : Bool :=
  match e with
  | .nfc => true
  | .regWrite off width _ => decide (width = 4) && decide (off % 4 = 0) && decide (off < 256)
  | .regRead off width => decide (width = 4) && decide (off % 4 = 0) && decide (off < 256)
  | .bufWrite a _ => decide (a < c.bufSize)
  | .bufRead a => decide (a < c.bufSize)
  | .waitDone => true
  | .reset => true
  | .resetInTransceive => true

/-- `k` controller steps with no move of the host in between end the command (R362). -/
def endsWithin (k : Nat) (s : State) : Prop :=
  ∃ n ≤ k, ∃ t, Sys2Proof.core.run n s = .next t ∧ t.seq.phase = .idle

/-- The twelve command words of R111's table. -/
def commandWords : List Word := [0x01, 0x02, 0x03, 0x04, 0x05, 0x06, 0x07, 0x10, 0x11, 0x12, 0x20, 0x21]

/-- What no step of the controller changes (R20, R46, R87): the parameters, the host's registers (CTRL, OVR, the
parameter registers), the command word, and what belongs to the environment. -/
structure HostSideKept (s t : State) : Prop where
  params : t.params = s.params
  inputs : t.inputs = s.inputs
  readData : t.readData = s.readData
  race : t.race = s.race
  word : t.seq.word = s.seq.word
  irqEn : t.regs.irqEn = s.regs.irqEn
  eccCorrFatal : t.regs.eccCorrFatal = s.regs.eccCorrFatal
  ovr : t.regs.ovr = s.regs.ovr
  startPage : t.regs.startPage = s.regs.startPage
  pageCount : t.regs.pageCount = s.regs.pageCount
  bufAddr : t.regs.bufAddr = s.regs.bufAddr
  bufLen : t.regs.bufLen = s.regs.bufLen
  maxAttempts : t.regs.maxAttempts = s.regs.maxAttempts
  pollDelay : t.regs.pollDelay = s.regs.pollDelay
  regAddr : t.regs.regAddr = s.regs.regAddr
  regValue : t.regs.regValue = s.regs.regValue

/-- The registers that report a command's end (R310, R311) are unchanged. -/
structure EndKept (s t : State) : Prop where
  busy : t.regs.busy = s.regs.busy
  done : t.regs.done = s.regs.done
  err : t.regs.err = s.regs.err
  errCode : t.regs.errCode = s.regs.errCode
  pageValid : t.regs.pageValid = s.regs.pageValid
  failPage : t.regs.failPage = s.regs.failPage

/-- The registers that the status decode writes (R162) are unchanged. -/
structure DecodeKept (s t : State) : Prop where
  statusRaw : t.regs.statusRaw = s.regs.statusRaw
  lastEcc : t.regs.lastEcc = s.regs.lastEcc
  eccMax : t.regs.eccMax = s.regs.eccMax
  eccCorrCount : t.regs.eccCorrCount = s.regs.eccCorrCount

/-- The ids (R41) are unchanged. -/
structure IdsKept (s t : State) : Prop where
  idMfr : t.regs.idMfr = s.regs.idMfr
  idDev : t.regs.idDev = s.regs.idDev

/-- Every byte of buffer memory reads as before. -/
def MemKept (s t : State) : Prop := ∀ a, memByte t.mem a = memByte s.mem a

/-- Every byte of buffer memory outside the `n` bytes at `lo` reads as before. -/
def MemKeptOutside (lo n : Nat) (s t : State) : Prop :=
  ∀ a, a < lo ∨ lo + n ≤ a → memByte t.mem a = memByte s.mem a

/-- A machine that has just accepted the command word `w` (R45), that the host leaves alone, with canonical memory. -/
structure Accepted (w : Word) (s : State) : Prop where
  params_wf : s.params.wf = true
  inputs : s.inputs = []
  race : s.race = []
  mem_wf : memWf s.mem = true
  phase : s.seq.phase = .start
  word : s.seq.word = w
  pagesDone : s.regs.pagesDone = 0
  pollCount : s.regs.pollCount = 0
  txnCount : s.regs.txnCount = 0

/-- The command has ended without error (R311, R362). -/
structure EndedOk (t : State) : Prop where
  phase : t.seq.phase = .idle
  busy : t.regs.busy = false
  done : t.regs.done = true
  err : t.regs.err = false
  errCode : t.regs.errCode = .none
  pageValid : t.regs.pageValid = false
  failPage : t.regs.failPage = 0

/-- The command has ended with error `e`, which carries `page` (R310, R362). -/
structure EndedWith (e : ErrCode) (page : Option Nat) (t : State) : Prop where
  phase : t.seq.phase = .idle
  busy : t.regs.busy = false
  done : t.regs.done = true
  err : t.regs.err = true
  errCode : t.regs.errCode = e
  pageValid : t.regs.pageValid = page.isSome
  failPage : t.regs.failPage.toNat = page.getD 0

/-- Status bytes as the channel answers them, one per status read. -/
def statusAnswers (bs : List Byte) : List Answer := bs.map fun b => .bytes [b]

/-- Every status byte reports busy (R122). -/
def AllBusy (P : Profile) (bs : List Byte) : Prop := ∀ b ∈ bs, b &&& P.busyMask ≠ 0

/-- The status byte reports Ready under the policy in force (R161, R162). -/
def ReportsReady (s : State) (b : Byte) : Prop := ∃ v, decodeOutcome s.params.profile s.regs.eccCorrFatal b = .ready v

/-- The channel's record of the frames `l`, each sent whole (R125 to R135). -/
def framesSent (P : Profile) (l : List Instr) : List Transaction := l.map (frameTxn P)

/-- The status read that the NFC sends, F_GET_STATUS at the profile's address (R130). -/
def statusRead (P : Profile) : Instr := .fGetStatus P.statusRegAddr

/-- The bytes of buffer slot `i`, with the pad, as the program path loads them (R73, R127, R197). -/
def slotUnit (s : State) (i : Nat) : List Byte :=
  memRead s.mem (s.regs.bufAddr.toNat + i * s.params.profile.pageSizeBytes) s.params.profile.pageSizeBytes
    ++ fill s.params.profile.spareBytes s.params.profile.padValue

/-- A bound on the controller steps of a command (R360, with one step more: log 28). -/
def stepBound (s : State) : Nat := 2 + max 1 (pagesWanted s) * (3 + 2 * s.regs.maxAttempts.toNat)

end Sys2Proof.Machine
end

