-- ==== Sys2Proof/Certificates/Slice0/Obligations.lean ====
section
/-! DEFINITION. The statements about the machine, in the order of OBLIGATIONS.json. Each docstring names the rules of spec/
that its statement formalises. -/

open Sys2Proof Sys2Proof.Machine

/-! ### Encoding -/

/-- R110, R111, R120, R125 to R131: words written out from the spec decode to the instructions they stand for, under
P_REF. Rows of spec/95_test_vectors.md (frames) and R111's table (command words). -/
def Obligations.DecodesWordsOfTheSpec : Prop :=
  decode pRef .cmd32 [0x10, 0x00, 0x00, 0x00] = .ok (.readPage, []) ∧
  decode pRef .cmd32 [0x07, 0x00, 0x00, 0x00] = .ok (.poll, []) ∧
  decode pRef .cmd32 [0x21, 0x00, 0x00, 0x00] = .ok (.programRange, []) ∧
  decode pRef .cmd32 [0x02, 0x00, 0x00, 0x00] = .ok (.identify, []) ∧
  decode pRef .cmd32 [0x10, 0x01, 0x00, 0x00] = .error .illegalCommand ∧
  decode pRef .frame [0x13, 0x12, 0x34, 0x00] = .ok (.fPageReadToCache 0x1234, []) ∧
  decode pRef .frame [0x03, 0x00, 0x00, 0x00] = .ok (.fReadFromCache, []) ∧
  decode pRef .frame [0x10, 0x00, 0x02, 0x00] = .ok (.fProgramExecute 2, []) ∧
  decode pRef .frame [0xD8, 0x00, 0x40, 0x00] = .ok (.fBlockErase 64, []) ∧
  decode pRef .frame [0x0F, 0xC0] = .ok (.fGetStatus 0xC0, []) ∧
  decode pRef .frame [0x1F, 0xA0, 0x00] = .ok (.fSetStatus 0xA0 0x00, []) ∧
  decode pRef .frame [0x9F, 0x00] = .ok (.fReadId, [])

/-- R110 to R112, R120, R121, R125 to R135: decoding an encoded well-formed instruction gives it back, with the bytes
after it, under every profile whose opcodes are distinct (R136). -/
def Obligations.DecodeOfEncodeIsTheInstruction : Prop :=
  ∀ (P : Profile) (i : Instr) (rest : List Byte), P.opcodesDistinct = true → i.wf P = true →
    decode P i.format (encode P i ++ rest) = .ok (i, rest)

/-- R125 to R135, the other direction: whatever the frame decoder reads is well-formed and is encoded by exactly the bytes
that were read; for colliding opcodes too (log 17). -/
def Obligations.EncodeOfDecodedFrameIsTheBytes : Prop :=
  ∀ (P : Profile) (bs rest : List Byte) (i : Instr), decodeFrame P bs = .ok (i, rest) →
    i.wf P = true ∧ bs = encode P i ++ rest

/-- R120: the row address is the page index, big-endian, unscaled, with dummy bytes 0x00 after it (LOW) or before it
(HIGH); R120's P_REF example; and every frame the NFC sends in a state of the invariant has a page index that fits. -/
def Obligations.RowAddressCarriesThePage : Prop :=
  (∀ (P : Profile) (p : Nat), (row P p).length = P.pageAddrBytes + P.rowDummyBytes) ∧
  (∀ (P : Profile) (p k : Nat), k < P.pageAddrBytes →
    ((row P p)[(match P.rowDummyPos with | .low => k | .high => P.rowDummyBytes + k)]?).map BitVec.toNat
      = some (p / 256 ^ (P.pageAddrBytes - 1 - k) % 256)) ∧
  (∀ (P : Profile) (p k : Nat), k < P.rowDummyBytes →
    (row P p)[(match P.rowDummyPos with | .low => P.pageAddrBytes + k | .high => k)]? = some 0x00) ∧
  row pRef 0x1234 = [0x12, 0x34, 0x00] ∧
  (∀ (s : State) (i : Instr), Inv s → phaseFrame s = some i → i.wf s.params.profile = true)

/-- R125 to R135: the bytes and the response length of each frame, from the profile's fields. -/
def Obligations.FrameBytes : Prop :=
  ∀ (P : Profile) (p : Nat) (d : List Byte) (a v : Byte),
    encode P (.fPageReadToCache p) = [P.opPageReadToCache] ++ row P p ∧ respLen P (.fPageReadToCache p) = 0 ∧
    encode P .fReadFromCache = [P.opReadFromCache] ++ col P ++ zeros P.cacheReadDummyBytes ∧
    respLen P .fReadFromCache = P.pageSizeBytes + P.spareBytes ∧
    encode P (.fProgramLoad (d ++ fill P.spareBytes P.padValue))
      = [P.opProgramLoad] ++ col P ++ d ++ fill P.spareBytes P.padValue ∧
    respLen P (.fProgramLoad (d ++ fill P.spareBytes P.padValue)) = 0 ∧
    encode P (.fProgramExecute p) = [P.opProgramExecute] ++ row P p ∧ respLen P (.fProgramExecute p) = 0 ∧
    encode P (.fBlockErase p) = [P.opBlockErase] ++ row P p ∧ respLen P (.fBlockErase p) = 0 ∧
    encode P (.fGetStatus P.statusRegAddr) = [P.opGetStatus, P.statusRegAddr] ∧
    respLen P (.fGetStatus P.statusRegAddr) = 1 ∧
    encode P (.fSetStatus a v) = [P.opSetStatus, a, v] ∧ respLen P (.fSetStatus a v) = 0 ∧
    encode P .fReset = [P.opReset] ∧ respLen P .fReset = 0 ∧
    encode P .fWriteEnable = [P.opWriteEnable] ∧ respLen P .fWriteEnable = 0 ∧
    encode P .fWriteDisable = [P.opWriteDisable] ∧ respLen P .fWriteDisable = 0 ∧
    encode P .fReadId = [P.opReadId] ++ zeros P.idDummyBytes ∧ respLen P .fReadId = P.mfrIdBytes + P.devIdBytes

/-! ### The step and the phases -/

/-- R47, R87, R111: with nothing of the environment in between, a step is the controller's step; in START it is the decoded
command's START step, in a phase that sends a frame it is that frame's step. The model's choices, no rules of the spec:
that a planned `nfc` is the same step with the plan moved on (log 3), and that a word placed by `withFetchWord` is the
next step's instruction (log 18). -/
def Obligations.StepRunsTheDecodedInstruction : Prop :=
  (∀ (s : State) (i : Instr), s.params.wf = true → s.inputs = [] → s.seq.phase = .start →
    decodeCommand s.seq.word = .ok i → step s = exec i s) ∧
  (∀ (s : State) (i : Instr), s.params.wf = true → s.inputs = [] → phaseFrame s = some i → step s = exec i s) ∧
  (∀ (s : State) (rest : List Input), s.params.wf = true → s.inputs = .nfc :: rest →
    step s = controllerStep { s with inputs := rest }) ∧
  (∀ (s : State), s.params.wf = true → s.inputs = [] → s.seq.phase = .pollDelay → step s = .next (setPhase .pollRead s)) ∧
  (∀ (s : State), s.params.wf = true → s.inputs = [] → s.seq.phase = .idle → step s = .next s) ∧
  (∀ (s : State) (w : Nat) (i : Instr), s.params.wf = true → decodeCommand (BitVec.ofNat 32 w) = .ok i →
    step (s.withFetchWord 32 w)
      = exec i { setPhase .start (acceptCommand (BitVec.ofNat 32 w) s) with inputs := s.inputs })

/-- R111: in phase START the whole word selects the command; every word outside the table raises ILLEGAL_COMMAND with no
page and no Transceive. -/
def Obligations.StartDecodesTheCommandWord : Prop :=
  ∀ s : State, s.seq.phase = .start →
    (s.seq.word = 0x01 → controllerStep s = exec .reset s) ∧
    (s.seq.word = 0x02 → controllerStep s = exec .identify s) ∧
    (s.seq.word = 0x03 → controllerStep s = exec .getStatus s) ∧
    (s.seq.word = 0x04 → controllerStep s = exec .setStatus s) ∧
    (s.seq.word = 0x05 → controllerStep s = exec .writeEnable s) ∧
    (s.seq.word = 0x06 → controllerStep s = exec .writeDisable s) ∧
    (s.seq.word = 0x07 → controllerStep s = exec .poll s) ∧
    (s.seq.word = 0x10 → controllerStep s = exec .readPage s) ∧
    (s.seq.word = 0x11 → controllerStep s = exec .programPage s) ∧
    (s.seq.word = 0x12 → controllerStep s = exec .eraseBlock s) ∧
    (s.seq.word = 0x20 → controllerStep s = exec .readRange s) ∧
    (s.seq.word = 0x21 → controllerStep s = exec .programRange s) ∧
    (s.seq.word ∉ commandWords → controllerStep s = .next (raiseError .illegalCommand none s))

/-- R112: an illegal word (reserved bits set, or an unlisted CODE) ends the command with ILLEGAL_COMMAND, sends nothing,
and writes no register beyond those of R310; with R45's acceptance before it, a whole run from the write to CMD. -/
def Obligations.IllegalWordChangesNothingElse : Prop :=
  ∀ s : State, s.seq.phase = .start →
    ((s.seq.word.toNat / 256 ≠ 0) ∨ (s.seq.word.toNat = 0) ∨ (0x08 ≤ s.seq.word.toNat ∧ s.seq.word.toNat ≤ 0x0F) ∨
      (0x13 ≤ s.seq.word.toNat ∧ s.seq.word.toNat ≤ 0x1F) ∨ (0x22 ≤ s.seq.word.toNat ∧ s.seq.word.toNat ≤ 0xFF)) →
    ∃ t, controllerStep s = .next t ∧ EndedWith .illegalCommand none t ∧ HostSideKept s t ∧ DecodeKept s t ∧ IdsKept s t ∧
      t.regs.pagesDone = s.regs.pagesDone ∧ t.regs.pollCount = s.regs.pollCount ∧ t.regs.txnCount = s.regs.txnCount ∧
      t.chan = s.chan ∧ t.mem = s.mem ∧ t.seq = { s.seq with phase := .idle }

/-- R45: a write of `w` to CMD while idle, in one step; the word is latched, not judged: an illegal one then ends with
ILLEGAL_COMMAND and zero transactions. -/
def Obligations.AcceptanceOfACommand : Prop :=
  ∀ (s : State) (w : Word) (rest : List Input), s.params.wf = true → s.regs.busy = false →
    s.inputs = .regWrite 0x08 4 w :: rest →
    ∃ t, step s = .next t ∧
      t.regs = { s.regs with
        done := false, err := false, eccMax := .noError, lastEcc := .noError, errCode := .none, pageValid := false
        failPage := 0, pagesDone := 0, pollCount := 0, txnCount := 0, eccCorrCount := 0, busy := true } ∧
      t.seq = { s.seq with word := w, phase := .start } ∧
      t.mem = s.mem ∧ t.chan = s.chan ∧ t.params = s.params ∧ t.inputs = rest ∧
      (w ∉ commandWords → ∃ u, controllerStep t = .next u ∧ EndedWith .illegalCommand none u ∧ u.regs.txnCount = 0 ∧
        u.chan = s.chan)

/-! ### The START steps: the twelve commands complete here -/

/-- R170, R260, R262, R264, R266, R268, R168 with R163: the START step of a command without a range: a one-frame command
goes to SINGLE, RESET to RST_SEND, POLL starts a poll whose Ready is RET_POLL; nothing else changes. -/
def Obligations.StartOfDeviceCommands : Prop :=
  (∀ (s : State) (i : Instr),
    i ∈ [Instr.identify, Instr.getStatus, Instr.setStatus, Instr.writeEnable, Instr.writeDisable] →
    exec i s = .next { s with seq := { s.seq with phase := .single } }) ∧
  (∀ s : State,
    exec .reset s = .next { s with seq := { s.seq with phase := .rstSend } } ∧
    exec .poll s = .next { s with
      regs := { s.regs with pollCount := 0 }, seq := { s.seq with ret := .poll, phase := .pollRead } })

/-- R190, R195, R200, R230: READ_PAGE and PROGRAM_PAGE of a page in range go to their first phase with `st.cur` the page;
out of range they end with INVALID_RANGE and no page. ERASE_BLOCK checks the page alone: BUF_ADDR and BUF_LEN are not read. -/
def Obligations.StartOfPageCommands : Prop :=
  ∀ s : State,
    (s.regs.startPage.toNat + 1 ≤ s.params.profile.pagesTotal →
      s.params.profile.pageSizeBytes ≤ s.regs.bufLen.toNat →
      s.regs.bufAddr.toNat + s.params.profile.pageSizeBytes ≤ 2 ^ s.params.bufAddrBits →
      exec .readPage s
        = .next { s with seq := { s.seq with cur := s.regs.startPage.toNat, phase := .rdSelect } } ∧
      exec .programPage s
        = .next { s with seq := { s.seq with cur := s.regs.startPage.toNat, phase := .wrEnable } }) ∧
    ((s.params.profile.pagesTotal < s.regs.startPage.toNat + 1 ∨
      s.regs.bufLen.toNat < s.params.profile.pageSizeBytes ∨
      2 ^ s.params.bufAddrBits < s.regs.bufAddr.toNat + s.params.profile.pageSizeBytes) →
      exec .readPage s = .next (raiseError .invalidRange none s) ∧
      exec .programPage s = .next (raiseError .invalidRange none s)) ∧
    (s.regs.startPage.toNat < s.params.profile.pagesTotal →
      exec .eraseBlock s
        = .next { s with seq := { s.seq with cur := s.regs.startPage.toNat, phase := .wrEnable } }) ∧
    (s.params.profile.pagesTotal ≤ s.regs.startPage.toNat →
      exec .eraseBlock s = .next (raiseError .invalidRange none s))

/-- R232, R236, R230: READ_RANGE and PROGRAM_RANGE of a range that fits go to their first phase, or end at once when it is
empty; out of range they end with INVALID_RANGE. The sums are exact: no wrap. -/
def Obligations.StartOfRangeCommands : Prop :=
  ∀ s : State,
    ((s.regs.startPage.toNat + s.regs.pageCount.toNat ≤ s.params.profile.pagesTotal ∧
      s.regs.pageCount.toNat * s.params.profile.pageSizeBytes ≤ s.regs.bufLen.toNat ∧
      s.regs.bufAddr.toNat + s.regs.pageCount.toNat * s.params.profile.pageSizeBytes ≤ 2 ^ s.params.bufAddrBits) →
      (s.regs.pageCount ≠ 0 →
        exec .readRange s
          = .next { s with seq := { s.seq with cur := s.regs.startPage.toNat, phase := .rdSelect } } ∧
        exec .programRange s
          = .next { s with seq := { s.seq with cur := s.regs.startPage.toNat, phase := .wrEnable } }) ∧
      (s.regs.pageCount = 0 → ∃ t, exec .readRange s = .next t ∧ exec .programRange s = .next t ∧ EndedOk t ∧
        HostSideKept s t ∧ t.chan = s.chan ∧ t.mem = s.mem ∧ t.regs.pagesDone = s.regs.pagesDone)) ∧
    ((s.params.profile.pagesTotal < s.regs.startPage.toNat + s.regs.pageCount.toNat ∨
      s.regs.bufLen.toNat < s.regs.pageCount.toNat * s.params.profile.pageSizeBytes ∨
      2 ^ s.params.bufAddrBits < s.regs.bufAddr.toNat + s.regs.pageCount.toNat * s.params.profile.pageSizeBytes) →
      exec .readRange s = .next (raiseError .invalidRange none s) ∧
      exec .programRange s = .next (raiseError .invalidRange none s))

/-! ### The frames: the eleven frames complete here -/

/-- R80, R81, R302: what a Transceive returns, and that it is counted and recorded whatever it returns. A prepared answer
of the requested length is the response; one of another length, or ChannelError, is a ChannelError. -/
def Obligations.TransceiveChecksTheAnswer : Prop :=
  ∀ (i : Instr) (s : State),
    (∀ r rest, s.chan.dev = .oracle (.bytes r :: rest) → r.length = respLen s.params.profile i →
      frameAnswer i s = some r ∧ (afterFrame i s).chan.dev = .oracle rest) ∧
    (∀ r rest, s.chan.dev = .oracle (.bytes r :: rest) → r.length ≠ respLen s.params.profile i →
      frameAnswer i s = none ∧ (afterFrame i s).chan.dev = .oracle rest) ∧
    (∀ rest, s.chan.dev = .oracle (.channelError :: rest) →
      frameAnswer i s = none ∧ (afterFrame i s).chan.dev = .oracle rest) ∧
    (∀ r, frameAnswer i s = some r → r.length = respLen s.params.profile i) ∧
    (afterFrame i s).chan.sent = s.chan.sent ++
      [{ tx := encode s.params.profile i, n := respLen s.params.profile i, cut := false }] ∧
    (afterFrame i s).regs = { s.regs with txnCount := s.regs.txnCount + 1 } ∧
    (afterFrame i s).seq = s.seq ∧ (afterFrame i s).mem = s.mem ∧ (afterFrame i s).params = s.params

/-- R191, R198, R201: RD_SELECT sends F_PAGE_READ_TO_CACHE(st.cur), WR_EXEC sends F_PROGRAM_EXECUTE(st.cur), ER_ERASE
sends F_BLOCK_ERASE(st.cur); on a ChannelError the command ends at that page, else the poll starts whose Ready is RET_READ,
RET_PROG or RET_ERASE. -/
def Obligations.AddressPhases : Prop :=
  ∀ (s : State) (p : Nat), p < 2 ^ (8 * s.params.profile.pageAddrBytes) →
    (s.seq.phase = .rdSelect →
      (p = s.seq.cur → controllerStep s = exec (.fPageReadToCache p) s) ∧
      (frameAnswer (.fPageReadToCache p) s = none →
        exec (.fPageReadToCache p) s
          = .next (raiseError .channelError (some s.seq.cur) (afterFrame (.fPageReadToCache p) s))) ∧
      (∀ r, frameAnswer (.fPageReadToCache p) s = some r →
        exec (.fPageReadToCache p) s = .next (beginPoll .read (afterFrame (.fPageReadToCache p) s)))) ∧
    (s.seq.phase = .wrExec →
      (p = s.seq.cur → controllerStep s = exec (.fProgramExecute p) s) ∧
      (frameAnswer (.fProgramExecute p) s = none →
        exec (.fProgramExecute p) s
          = .next (raiseError .channelError (some s.seq.cur) (afterFrame (.fProgramExecute p) s))) ∧
      (∀ r, frameAnswer (.fProgramExecute p) s = some r →
        exec (.fProgramExecute p) s = .next (beginPoll .prog (afterFrame (.fProgramExecute p) s)))) ∧
    (s.seq.phase = .erErase →
      (p = s.seq.cur → controllerStep s = exec (.fBlockErase p) s) ∧
      (frameAnswer (.fBlockErase p) s = none →
        exec (.fBlockErase p) s
          = .next (raiseError .channelError (some s.seq.cur) (afterFrame (.fBlockErase p) s))) ∧
      (∀ r, frameAnswer (.fBlockErase p) s = some r →
        exec (.fBlockErase p) s = .next (beginPoll .erase (afterFrame (.fBlockErase p) s))))

/-- R192, R73, R76, R78: RD_CACHE sends F_READ_FROM_CACHE; on ChannelError the command ends at the page and no byte is
written; else byte `k` of the response goes to byte `k` of the page's slot for `k` below the page size, every other byte
of memory stays, and the page is complete, all in the one step. Stated for a slot no host raced for (R350). -/
def Obligations.ReadCachePhase : Prop :=
  ∀ s : State, s.seq.phase = .rdCache → s.race = [] → memWf s.mem = true →
    s.regs.startPage.toNat ≤ s.seq.cur →
    s.regs.bufAddr.toNat + (s.seq.cur - s.regs.startPage.toNat) * s.params.profile.pageSizeBytes
      + s.params.profile.pageSizeBytes ≤ 2 ^ s.params.bufAddrBits →
    controllerStep s = exec .fReadFromCache s ∧
    (frameAnswer .fReadFromCache s = none →
      exec .fReadFromCache s = .next (raiseError .channelError (some s.seq.cur) (afterFrame .fReadFromCache s))) ∧
    (∀ r, frameAnswer .fReadFromCache s = some r →
      ∃ t u, exec .fReadFromCache s = .next t ∧ t = pageComplete u ∧
        u.regs = { s.regs with txnCount := s.regs.txnCount + 1 } ∧ u.seq = { s.seq with scratch := r } ∧
        (∀ k, k < s.params.profile.pageSizeBytes →
          r[k]? = some (memByte t.mem (s.regs.bufAddr.toNat
            + (s.seq.cur - s.regs.startPage.toNat) * s.params.profile.pageSizeBytes + k))) ∧
        MemKeptOutside (s.regs.bufAddr.toNat
          + (s.seq.cur - s.regs.startPage.toNat) * s.params.profile.pageSizeBytes) s.params.profile.pageSizeBytes s t)

/-- R197: WR_LOAD reads the page's slot, pads it to the cache-transfer unit and sends F_PROGRAM_LOAD; then WR_EXEC. The
frame the phase builds is of the slot's bytes when the host has not raced for them (R350). -/
def Obligations.LoadPhase : Prop :=
  ∀ (s : State) (d : List Byte), s.seq.phase = .wrLoad → d.length = s.params.profile.cu →
    s.regs.startPage.toNat ≤ s.seq.cur → s.seq.cur < 2 ^ 32 →
    s.regs.bufAddr.toNat + (s.seq.cur - s.regs.startPage.toNat) * s.params.profile.pageSizeBytes
      + s.params.profile.pageSizeBytes ≤ 2 ^ s.params.bufAddrBits →
    (s.race = [] → phaseFrame s = some (.fProgramLoad (slotUnit s (s.seq.cur - s.regs.startPage.toNat)))) ∧
    (phaseFrame s = some (.fProgramLoad d) → controllerStep s = exec (.fProgramLoad d) s) ∧
    (frameAnswer (.fProgramLoad d) s = none →
      ∃ t, exec (.fProgramLoad d) s = .next t ∧ EndedWith .channelError (some s.seq.cur) t ∧ t.seq.scratch = d ∧
        t.regs.txnCount = s.regs.txnCount + 1 ∧ t.mem = s.mem) ∧
    (∀ r, frameAnswer (.fProgramLoad d) s = some r →
      ∃ t, exec (.fProgramLoad d) s = .next t ∧ t.seq = { s.seq with scratch := d, phase := .wrExec } ∧
        t.regs = { s.regs with txnCount := s.regs.txnCount + 1 } ∧ t.mem = s.mem ∧
        t.chan.sent = s.chan.sent ++ framesSent s.params.profile [.fProgramLoad d])

/-- R163, R166: one attempt of a poll. With the budget spent: TIMEOUT and no frame. Else one status read: a ChannelError
ends the command at once; a busy byte asks for another attempt while the budget lasts and is TIMEOUT at its end; a
reported failure ends the command with it; Ready continues. The page is `st.cur` but for POLL and RESET. -/
def Obligations.PollReadPhase : Prop :=
  ∀ (s : State) (a : Byte), s.seq.phase = .pollRead →
    (a = s.params.profile.statusRegAddr → controllerStep s = exec (.fGetStatus a) s) ∧
    (∀ pg : Option Nat, pg = (if s.seq.ret = .poll ∨ s.seq.ret = .reset then none else some s.seq.cur) →
      (s.regs.maxAttempts.toNat ≤ s.regs.pollCount.toNat →
        exec (.fGetStatus a) s = .next (raiseError .timeout pg s)) ∧
      (s.regs.pollCount.toNat < s.regs.maxAttempts.toNat →
        ∀ s₁ : State, s₁ = { s with regs := { s.regs with pollCount := s.regs.pollCount + 1 } } →
        (frameAnswer (.fGetStatus a) s = none →
          exec (.fGetStatus a) s = .next (raiseError .channelError pg (afterFrame (.fGetStatus a) s₁))) ∧
        (∀ b, frameAnswer (.fGetStatus a) s = some [b] →
          ∀ u : State, u = decodeStatus b (afterFrame (.fGetStatus a) s₁) →
          (decodeOutcome s.params.profile s.regs.eccCorrFatal b = .busy →
            exec (.fGetStatus a) s = .next (
              if s.regs.pollCount.toNat + 1 < s.regs.maxAttempts.toNat then setPhase .pollDelay u
              else raiseError .timeout pg u)) ∧
          (∀ e, decodeOutcome s.params.profile s.regs.eccCorrFatal b = .fail e →
            exec (.fGetStatus a) s = .next (raiseError e pg u)) ∧
          (∀ v, decodeOutcome s.params.profile s.regs.eccCorrFatal b = .ready v →
            exec (.fGetStatus a) s = .next (continuePoll u)))))

/-- R170, R262, R124, R75: the one-frame commands with a response. GET_STATUS's read stores the byte in STATUS_RAW and
decodes nothing: POLL_COUNT and the ECC registers stay. IDENTIFY's ids are the big-endian values of the response's two
parts, first byte most significant; on a ChannelError they keep their old values. -/
def Obligations.SingleReadPhases : Prop :=
  ∀ s : State, s.seq.phase = .single → s.params.wf = true →
    (s.seq.word = 0x03 → controllerStep s = exec (.fGetStatus s.params.profile.statusRegAddr) s) ∧
    (∀ a, frameAnswer (.fGetStatus a) s = none →
      exec (.fGetStatus a) s = .next (raiseError .channelError none (afterFrame (.fGetStatus a) s))) ∧
    (∀ a b, frameAnswer (.fGetStatus a) s = some [b] →
      ∃ t, exec (.fGetStatus a) s = .next t ∧ EndedOk t ∧ t.regs.statusRaw = b ∧
        t.regs.txnCount = s.regs.txnCount + 1 ∧ t.regs.pollCount = s.regs.pollCount ∧
        t.regs.lastEcc = s.regs.lastEcc ∧ t.regs.eccMax = s.regs.eccMax ∧
        t.regs.eccCorrCount = s.regs.eccCorrCount ∧ HostSideKept s t ∧ IdsKept s t ∧ t.mem = s.mem) ∧
    (s.seq.word = 0x02 → controllerStep s = exec .fReadId s) ∧
    (frameAnswer .fReadId s = none →
      exec .fReadId s = .next (raiseError .channelError none (afterFrame .fReadId s)) ∧
      IdsKept s (raiseError .channelError none (afterFrame .fReadId s))) ∧
    (∀ m d : List Byte, frameAnswer .fReadId s = some (m ++ d) → m.length = s.params.profile.mfrIdBytes →
      ∃ t, exec .fReadId s = .next t ∧ EndedOk t ∧
        t.regs.idMfr.toNat = m.foldl (fun acc b => acc * 256 + b.toNat) 0 ∧
        t.regs.idDev.toNat = d.foldl (fun acc b => acc * 256 + b.toNat) 0 ∧
        t.regs.txnCount = s.regs.txnCount + 1)

/-- R196, R260, R264, R266, R268: F_WRITE_ENABLE in WR_ENABLE goes on to ER_ERASE for ERASE_BLOCK and to WR_LOAD otherwise,
its latch unchecked; F_RESET starts the poll of RET_RESET; in SINGLE, F_WRITE_ENABLE, F_SET_STATUS (of REG_ARG's two fields)
and F_WRITE_DISABLE end the command. A ChannelError ends it, with the page in WR_ENABLE and without one elsewhere. -/
def Obligations.DeviceControlPhases : Prop :=
  ∀ s : State,
    (s.seq.phase = .wrEnable →
      controllerStep s = exec .fWriteEnable s ∧
      (frameAnswer .fWriteEnable s = none →
        exec .fWriteEnable s = .next (raiseError .channelError (some s.seq.cur) (afterFrame .fWriteEnable s))) ∧
      (∀ r, frameAnswer .fWriteEnable s = some r →
        exec .fWriteEnable s
          = .next (setPhase (if s.seq.word.toNat % 256 = 0x12 then .erErase else .wrLoad) (afterFrame .fWriteEnable s)))) ∧
    (s.seq.phase = .rstSend →
      controllerStep s = exec .fReset s ∧
      (frameAnswer .fReset s = none → exec .fReset s = .next (raiseError .channelError none (afterFrame .fReset s))) ∧
      (∀ r, frameAnswer .fReset s = some r → exec .fReset s = .next (beginPoll .reset (afterFrame .fReset s)))) ∧
    (s.seq.phase = .single →
      (s.seq.word = 0x04 → controllerStep s = exec (.fSetStatus s.regs.regAddr s.regs.regValue) s) ∧
      (s.seq.word = 0x05 → controllerStep s = exec .fWriteEnable s) ∧
      (s.seq.word = 0x06 → controllerStep s = exec .fWriteDisable s) ∧
      (∀ a v i, i ∈ [Instr.fSetStatus a v, Instr.fWriteEnable, Instr.fWriteDisable] →
        (frameAnswer i s = none → exec i s = .next (raiseError .channelError none (afterFrame i s))) ∧
        (∀ r, frameAnswer i s = some r → exec i s = .next (finishOk (afterFrame i s)))))

/-- R125 to R135 name the phases that send each frame. Outside them the model refuses the frame by name, and in them one
whose operand has no encoding: a page index too wide for its field, data that are no whole cache-transfer unit, the latter
with the slot inside the address space, since a slot outside it faults first (the model's choice, log 10, log 12). -/
def Obligations.FrameOutsideItsPhaseIsRefused : Prop :=
  ∀ (s : State) (p : Nat) (d : List Byte) (a v : Byte),
    (s.seq.phase ≠ .rdSelect → exec (.fPageReadToCache p) s = .refused .frameOutsideItsPhase) ∧
    (s.seq.phase ≠ .rdCache → exec .fReadFromCache s = .refused .frameOutsideItsPhase) ∧
    (s.seq.phase ≠ .wrLoad → exec (.fProgramLoad d) s = .refused .frameOutsideItsPhase) ∧
    (s.seq.phase ≠ .wrExec → exec (.fProgramExecute p) s = .refused .frameOutsideItsPhase) ∧
    (s.seq.phase ≠ .erErase → exec (.fBlockErase p) s = .refused .frameOutsideItsPhase) ∧
    (s.seq.phase ≠ .pollRead → s.seq.phase ≠ .single → exec (.fGetStatus a) s = .refused .frameOutsideItsPhase) ∧
    (s.seq.phase ≠ .single → exec (.fSetStatus a v) s = .refused .frameOutsideItsPhase) ∧
    (s.seq.phase ≠ .rstSend → exec .fReset s = .refused .frameOutsideItsPhase) ∧
    (s.seq.phase ≠ .wrEnable → s.seq.phase ≠ .single → exec .fWriteEnable s = .refused .frameOutsideItsPhase) ∧
    (s.seq.phase ≠ .single → exec .fWriteDisable s = .refused .frameOutsideItsPhase) ∧
    (s.seq.phase ≠ .single → exec .fReadId s = .refused .frameOutsideItsPhase) ∧
    (2 ^ (8 * s.params.profile.pageAddrBytes) ≤ p →
      (s.seq.phase = .rdSelect → exec (.fPageReadToCache p) s = .refused .illFormedFrame) ∧
      (s.seq.phase = .wrExec → exec (.fProgramExecute p) s = .refused .illFormedFrame) ∧
      (s.seq.phase = .erErase → exec (.fBlockErase p) s = .refused .illFormedFrame)) ∧
    (s.seq.phase = .wrLoad → d.length ≠ s.params.profile.cu → s.regs.startPage.toNat ≤ s.seq.cur →
      s.regs.bufAddr.toNat + (s.seq.cur - s.regs.startPage.toNat) * s.params.profile.pageSizeBytes
        + s.params.profile.pageSizeBytes ≤ 2 ^ s.params.bufAddrBits →
      exec (.fProgramLoad d) s = .refused .illFormedFrame)

/-! ### Frames: what an instruction leaves unchanged -/

/-- R111, R113, R170 to R268: what a command's START step leaves unchanged. -/
def Obligations.FrameOfCommands : Prop :=
  ∀ (i : Instr) (s t : State),
    i ∈ [Instr.reset, Instr.identify, Instr.getStatus, Instr.setStatus, Instr.writeEnable, Instr.writeDisable, Instr.poll,
      Instr.readPage, Instr.programPage, Instr.eraseBlock, Instr.readRange, Instr.programRange] →
    exec i s = .next t →
    HostSideKept s t ∧ DecodeKept s t ∧ IdsKept s t ∧ MemKept s t ∧ t.chan = s.chan ∧ t.draws = s.draws ∧
      t.regs.pagesDone = s.regs.pagesDone ∧ t.regs.txnCount = s.regs.txnCount ∧ t.seq.scratch = s.seq.scratch ∧
      t.racedReads = s.racedReads ∧
      (i ≠ .poll → t.regs.pollCount = s.regs.pollCount ∧ t.seq.ret = s.seq.ret) ∧
      (t.seq.phase ≠ .idle → EndKept s t)

/-- R125 to R134: what the frames without a response leave unchanged; they count in TXN_COUNT, and those that start a poll
clear POLL_COUNT. None stores a byte of memory. -/
def Obligations.FrameOfSendingFrames : Prop :=
  ∀ (p : Nat) (d : List Byte) (a v : Byte) (i : Instr) (s t : State),
    i ∈ [Instr.fPageReadToCache p, Instr.fProgramLoad d, Instr.fProgramExecute p, Instr.fBlockErase p,
      Instr.fSetStatus a v, Instr.fReset, Instr.fWriteEnable, Instr.fWriteDisable] →
    exec i s = .next t →
    HostSideKept s t ∧ DecodeKept s t ∧ IdsKept s t ∧ MemKept s t ∧ t.regs.pagesDone = s.regs.pagesDone ∧
      t.seq.cur = s.seq.cur ∧ t.racedReads = s.racedReads ∧
      (i ≠ .fProgramLoad d → t.seq.scratch = s.seq.scratch ∧ t.draws = s.draws) ∧
      (i = .fProgramLoad d ∨ i = .fSetStatus a v ∨ i = .fWriteEnable ∨ i = .fWriteDisable ∨ t.seq.phase = .idle →
        t.regs.pollCount = s.regs.pollCount ∧ t.seq.ret = s.seq.ret) ∧
      (t.seq.phase ≠ .idle → EndKept s t)

/-- R130, R135, R163, R170, R262: what the short reads leave unchanged. Neither stores a byte of memory. A status read
completes a page only for the program poll (RET_PROG); the read-ID frame writes the ids alone, and those only without an
error. -/
def Obligations.FrameOfShortReads : Prop :=
  (∀ (a : Byte) (s t : State), exec (.fGetStatus a) s = .next t →
    HostSideKept s t ∧ IdsKept s t ∧ MemKept s t ∧ t.seq.scratch = s.seq.scratch ∧ t.draws = s.draws ∧
      t.seq.ret = s.seq.ret ∧ t.racedReads = s.racedReads ∧
      (s.seq.ret ≠ .prog ∨ s.seq.phase = .single → t.regs.pagesDone = s.regs.pagesDone ∧ t.seq.cur = s.seq.cur) ∧
      (s.seq.phase = .single → t.regs.pollCount = s.regs.pollCount ∧ t.regs.lastEcc = s.regs.lastEcc ∧
        t.regs.eccMax = s.regs.eccMax ∧ t.regs.eccCorrCount = s.regs.eccCorrCount) ∧
      (t.seq.phase ≠ .idle → EndKept s t)) ∧
  (∀ (s t : State), exec .fReadId s = .next t →
    HostSideKept s t ∧ DecodeKept s t ∧ MemKept s t ∧ t.regs.pagesDone = s.regs.pagesDone ∧
      t.regs.pollCount = s.regs.pollCount ∧ t.draws = s.draws ∧
      t.seq.ret = s.seq.ret ∧ t.seq.cur = s.seq.cur ∧ t.seq.scratch = s.seq.scratch ∧ t.racedReads = s.racedReads ∧
      (t.regs.errCode ≠ .none → IdsKept s t))

/-- R126, R192: what the read-from-cache frame leaves unchanged: every byte of memory outside the page's slot, whose
address is the one the meaning stores at; every byte, where the command ends with an error. -/
def Obligations.FrameOfReadFromCache : Prop :=
  ∀ (s t : State), exec .fReadFromCache s = .next t →
    HostSideKept s t ∧ DecodeKept s t ∧ IdsKept s t ∧ t.regs.pollCount = s.regs.pollCount ∧ t.seq.ret = s.seq.ret ∧
      MemKeptOutside (slotAddr s) s.params.profile.pageSizeBytes s t ∧
      (t.regs.errCode ≠ .none → t.seq.phase = .idle →
        MemKept s t ∧ t.regs.pagesDone = s.regs.pagesDone ∧ t.seq.cur = s.seq.cur ∧ t.seq.scratch = s.seq.scratch ∧
        t.racedReads = s.racedReads) ∧
      (t.seq.phase ≠ .idle → EndKept s t)

/-! ### Ending a command -/

/-- R310, R311: `raise E(page)` and `finish_ok()`, field by field. Nothing is rolled back: the counters, STATUS_RAW, the ECC
registers and the buffer keep what they have, so that a command that ends without error may still report CORRECTED. -/
def Obligations.EndOfACommand : Prop :=
  (∀ (e : ErrCode) (page : Option Nat) (s : State), (∀ p, page = some p → p < 2 ^ 32) →
    EndedWith e page (raiseError e page s) ∧ HostSideKept s (raiseError e page s) ∧
    DecodeKept s (raiseError e page s) ∧ IdsKept s (raiseError e page s) ∧
    (raiseError e page s).regs.pagesDone = s.regs.pagesDone ∧
    (raiseError e page s).regs.pollCount = s.regs.pollCount ∧
    (raiseError e page s).regs.txnCount = s.regs.txnCount ∧
    (raiseError e page s).mem = s.mem ∧ (raiseError e page s).chan = s.chan ∧
    (raiseError e page s).seq = { s.seq with phase := .idle } ∧
    (readOffset (raiseError e page s) 0x28).toNat = errCodeNumber e + 256 * page.isSome.toNat) ∧
  (∀ s : State,
    EndedOk (finishOk s) ∧ HostSideKept s (finishOk s) ∧ DecodeKept s (finishOk s) ∧ IdsKept s (finishOk s) ∧
    (finishOk s).regs.pagesDone = s.regs.pagesDone ∧ (finishOk s).regs.pollCount = s.regs.pollCount ∧
    (finishOk s).regs.txnCount = s.regs.txnCount ∧ (finishOk s).mem = s.mem ∧ (finishOk s).chan = s.chan ∧
    (finishOk s).seq = { s.seq with phase := .idle } ∧ readOffset (finishOk s) 0x28 = 0)

/-- R234: the end of a page. -/
def Obligations.PageCompleteStartsTheNextOrEnds : Prop :=
  ∀ s : State, ∀ s₁ : State,
    s₁ = { s with regs := { s.regs with pagesDone := s.regs.pagesDone + 1 }, seq := { s.seq with cur := s.seq.cur + 1 } } →
    (s.seq.word.toNat % 256 = 0x10 ∨ s.seq.word.toNat % 256 = 0x11 → pageComplete s = finishOk s₁) ∧
    (s.seq.word.toNat % 256 ≠ 0x10 → s.seq.word.toNat % 256 ≠ 0x11 →
      (s.regs.pagesDone + 1 = s.regs.pageCount → pageComplete s = finishOk s₁) ∧
      (s.regs.pagesDone + 1 ≠ s.regs.pageCount → s.seq.word.toNat % 256 = 0x20 →
        pageComplete s = { s₁ with seq := { s₁.seq with phase := .rdSelect } }) ∧
      (s.regs.pagesDone + 1 ≠ s.regs.pageCount → s.seq.word.toNat % 256 ≠ 0x20 →
        pageComplete s = { s₁ with seq := { s₁.seq with phase := .wrEnable } }))

/-- R165: where a poll's Ready goes; the severity is already in LAST_ECC by then (R162). -/
def Obligations.ReadyContinuesByReturn : Prop :=
  (∀ s : State,
    (s.seq.ret = .poll → continuePoll s = finishOk s) ∧
    (s.seq.ret = .reset → continuePoll s = finishOk s) ∧
    (s.seq.ret = .read → continuePoll s = { s with seq := { s.seq with phase := .rdCache } }) ∧
    (s.seq.ret = .prog → continuePoll s = pageComplete s) ∧
    (s.seq.ret = .erase → continuePoll s = finishOk s)) ∧
  (∀ (s : State) (b : Byte) (v : Severity), decodeOutcome s.params.profile s.regs.eccCorrFatal b = .ready v →
    pollReceive b s = continuePoll (decodeStatus b s) ∧ (decodeStatus b s).regs.lastEcc = v)

/-! ### The decoder -/

/-- R161: the first field that applies decides, in the order busy, erase-fail, program-fail, ECC; fields after it leave no
trace in the ECC registers. -/
def Obligations.DecodeOrder : Prop :=
  ∀ (P : Profile) (fatal : Bool) (b : Byte) (r : Regs),
    (b &&& P.busyMask ≠ 0 → decodeOutcome P fatal b = .busy) ∧
    (b &&& P.busyMask = 0 → b &&& P.efailMask ≠ 0 → decodeOutcome P fatal b = .fail .eraseFailure) ∧
    (b &&& P.busyMask = 0 → b &&& P.efailMask = 0 → b &&& P.pfailMask ≠ 0 →
      decodeOutcome P fatal b = .fail .programFailure) ∧
    (b &&& P.busyMask = 0 → b &&& P.efailMask = 0 → b &&& P.pfailMask = 0 →
      (severity P b = .uncorrectable → decodeOutcome P fatal b = .fail .uncorrectableEcc) ∧
      (severity P b = .corrected → fatal = true → decodeOutcome P fatal b = .fail .correctedEccFatal) ∧
      (severity P b = .corrected → fatal = false → decodeOutcome P fatal b = .ready .corrected) ∧
      (severity P b = .noError → decodeOutcome P fatal b = .ready .noError)) ∧
    (b &&& P.busyMask ≠ 0 ∨ b &&& P.efailMask ≠ 0 ∨ b &&& P.pfailMask ≠ 0 →
      decodeRegs P b r = { r with statusRaw := b })

/-- R162, R122, R123: the decoder's register writes, and nothing else: STATUS_RAW always; LAST_ECC, the maximum in ECC_MAX
and the count of CORRECTED (modulo 2^32) when the decode reaches the ECC field. A field value that the map does not name
is UNCORRECTABLE. -/
def Obligations.DecodeWrites : Prop :=
  (∀ (P : Profile) (b : Byte) (r : Regs), b &&& P.busyMask = 0 → b &&& P.efailMask = 0 → b &&& P.pfailMask = 0 →
    ∃ r', decodeRegs P b r = r' ∧
      r' = { r with
        statusRaw := b, lastEcc := severity P b, eccMax := r'.eccMax, eccCorrCount := r'.eccCorrCount } ∧
      sevCode r'.eccMax = max (sevCode r.eccMax) (sevCode (severity P b)) ∧
      (severity P b = .corrected → r'.eccCorrCount.toNat = (r.eccCorrCount.toNat + 1) % 2 ^ 32) ∧
      (severity P b ≠ .corrected → r'.eccCorrCount = r.eccCorrCount)) ∧
  (∀ (P : Profile) (b : Byte) (v : Severity),
    P.eccMap.lookup (((b &&& P.eccMask) >>> P.eccShift).toNat) = some v → severity P b = v) ∧
  (∀ (P : Profile) (b : Byte),
    P.eccMap.lookup (((b &&& P.eccMask) >>> P.eccShift).toNat) = none → severity P b = .uncorrectable) ∧
  sevCode .noError = 0 ∧ sevCode .corrected = 1 ∧ sevCode .uncorrectable = 2

/-! ### The host registers -/

/-- R24, R25, R33, R34, R39: the packed registers, bit by bit; and a write to STATUS, which at any time clears DONE and OVR
where its bits 1 and 3 are 1 and does nothing else (R25, R86, R313). -/
def Obligations.PackedRegisters : Prop :=
  (∀ s : State,
    ((readOffset s 0x04).getLsbD 0 = s.regs.busy ∧ (readOffset s 0x04).getLsbD 1 = s.regs.done ∧
      (readOffset s 0x04).getLsbD 2 = s.regs.err ∧ (readOffset s 0x04).getLsbD 3 = s.regs.ovr ∧
      ((readOffset s 0x04).extractLsb' 4 2).toNat = sevCode s.regs.eccMax ∧
      ((readOffset s 0x04).extractLsb' 6 2).toNat = sevCode s.regs.lastEcc ∧
      (readOffset s 0x04).getLsbD 8 = (s.regs.irqEn && s.regs.done)) ∧
    ((readOffset s 0x00).getLsbD 0 = s.regs.irqEn ∧ (readOffset s 0x00).getLsbD 1 = s.regs.eccCorrFatal) ∧
    ((readOffset s 0x24).extractLsb' 0 8 = s.regs.regAddr ∧ (readOffset s 0x24).extractLsb' 8 8 = s.regs.regValue) ∧
    (((readOffset s 0x28).extractLsb' 0 4).toNat = errCodeNumber s.regs.errCode ∧
      (readOffset s 0x28).getLsbD 8 = s.regs.pageValid) ∧
    (readOffset s 0x3C).extractLsb' 0 8 = s.regs.statusRaw) ∧
  (∀ (s : State) (v : Word) (rest : List Input), s.params.wf = true → s.inputs = .regWrite 0x04 4 v :: rest →
    ∃ t, step s = .next t ∧
      t = { s with inputs := rest, regs := { s.regs with done := t.regs.done, ovr := t.regs.ovr } } ∧
      (t.regs.done = true ↔ s.regs.done = true ∧ v.getLsbD 1 = false) ∧
      (t.regs.ovr = true ↔ s.regs.ovr = true ∧ v.getLsbD 3 = false))

/-- R43: reserved offsets and fields read 0 and ignore writes, and read-only registers ignore writes; none of these sets
OVR, at any time. -/
def Obligations.ReservedAndReadOnlyIgnoreWrites : Prop :=
  (∀ (s : State) (off : Nat) (v : Word), off % 4 = 0 → 0x4C ≤ off → off ≤ 0xFC →
    readOffset s off = 0 ∧ writeOffset off v s = s) ∧
  (∀ (s : State) (off : Nat) (v : Word), off ∈ [0x28, 0x2C, 0x30, 0x34, 0x38, 0x3C, 0x40, 0x44, 0x48] →
    writeOffset off v s = s) ∧
  (∀ (s : State) (k : Nat),
    (2 ≤ k → (readOffset s 0x00).getLsbD k = false) ∧ (9 ≤ k → (readOffset s 0x04).getLsbD k = false) ∧
    (16 ≤ k → (readOffset s 0x24).getLsbD k = false) ∧ (9 ≤ k → (readOffset s 0x28).getLsbD k = false) ∧
    (4 ≤ k → k < 8 → (readOffset s 0x28).getLsbD k = false) ∧ (8 ≤ k → (readOffset s 0x3C).getLsbD k = false)) ∧
  (∀ (s : State) (v w : Word),
    (v.extractLsb' 0 2 = w.extractLsb' 0 2 → writeOffset 0x00 v s = writeOffset 0x00 w s) ∧
    (v.getLsbD 1 = w.getLsbD 1 → v.getLsbD 3 = w.getLsbD 3 → writeOffset 0x04 v s = writeOffset 0x04 w s) ∧
    (v.extractLsb' 0 16 = w.extractLsb' 0 16 → writeOffset 0x24 v s = writeOffset 0x24 w s)) ∧
  (∀ (s : State) (v : Word), (writeOffset 0x00 v s).regs.ovr = s.regs.ovr ∧
    ((writeOffset 0x04 v s).regs.ovr = true → s.regs.ovr = true))

/-- R44: a register read returns the live value and has no side effect, busy or not. -/
def Obligations.RegisterReadHasNoSideEffect : Prop :=
  (∀ (s : State) (off : Nat) (rest : List Input), s.params.wf = true → off % 4 = 0 → off < 256 →
    s.inputs = .regRead off 4 :: rest →
    step s = .next { s with inputs := rest, readData := some (readOffset s off) }) ∧
  (∀ s : State, readOffset s 0x30 = s.regs.pagesDone ∧ readOffset s 0x34 = s.regs.pollCount ∧
    readOffset s 0x38 = s.regs.txnCount)

/-- R23, R24, R27 to R33: what the host writes to a parameter register while idle, and to CTRL at any time, it reads back,
less the bits that do not exist; no other register of the window changes, but for STATUS's IRQ mirror at a CTRL write. -/
def Obligations.WrittenRegistersReadBack : Prop :=
  ∀ (s : State) (v : Word), s.params.wf = true →
    (s.regs.busy = false → ∀ off, off ∈ [0x0C, 0x10, 0x18, 0x1C, 0x20] →
      readOffset (writeOffset off v s) off = v ∧
      (∀ off', off' ≠ off → readOffset (writeOffset off v s) off' = readOffset s off')) ∧
    (s.regs.busy = false →
      (readOffset (writeOffset 0x14 v s) 0x14).toNat = v.toNat % 2 ^ s.params.bufAddrBits ∧
      (readOffset (writeOffset 0x24 v s) 0x24).toNat = v.toNat % 2 ^ 16 ∧
      (∀ off', off' ≠ 0x14 → readOffset (writeOffset 0x14 v s) off' = readOffset s off') ∧
      (∀ off', off' ≠ 0x24 → readOffset (writeOffset 0x24 v s) off' = readOffset s off')) ∧
    (readOffset (writeOffset 0x00 v s) 0x00).toNat = v.toNat % 4 ∧
    (∀ off', off' ≠ 0x00 → off' ≠ 0x04 → readOffset (writeOffset 0x00 v s) off' = readOffset s off') ∧
    (∀ w : Word, readOffset (writeOffset 0x08 w s) 0x08 = 0)

/-- R46: while BUSY, a write to CMD or to a parameter register does nothing but set OVR. -/
def Obligations.BusyWriteOnlySetsOvr : Prop :=
  ∀ (s : State) (off : Nat) (v : Word) (rest : List Input), s.params.wf = true → s.regs.busy = true →
    off ∈ [0x08, 0x0C, 0x10, 0x14, 0x18, 0x1C, 0x20, 0x24] → s.inputs = .regWrite off 4 v :: rest →
    step s = .next { s with inputs := rest, regs := { s.regs with ovr := true } }

/-- R315: the interrupt is the level `IRQ_EN & DONE`, mirrored in STATUS bit 8: it rises at a command's end while enabled,
and falls when the host clears DONE or IRQ_EN or starts a command. -/
def Obligations.InterruptIsALevel : Prop :=
  ∀ s : State,
    irq s = (s.regs.irqEn && s.regs.done) ∧ (readOffset s 0x04).getLsbD 8 = irq s ∧
    (∀ e page, irq (raiseError e page s) = s.regs.irqEn) ∧ irq (finishOk s) = s.regs.irqEn ∧
    (∀ v : Word, v.getLsbD 1 = true → irq (writeOffset 0x04 v s) = false) ∧
    (∀ v : Word, v.getLsbD 0 = false → irq (writeOffset 0x00 v s) = false) ∧
    (∀ w : Word, s.regs.busy = false → irq (writeOffset 0x08 w s) = false)

/-- R74, R70: a register access that is no whole aligned word is refused; one outside the window faults (log 11); a buffer
access beyond 2^BUF_ADDR_BITS faults (log 12). -/
def Obligations.IllegalAccessesStop : Prop :=
  ∀ (s : State) (rest : List Input), s.params.wf = true →
    (∀ off width v, width ≠ 4 ∨ off % 4 ≠ 0 → s.inputs = .regWrite off width v :: rest →
      step s = .refused .registerAccessNotWord) ∧
    (∀ off width, width ≠ 4 ∨ off % 4 ≠ 0 → s.inputs = .regRead off width :: rest →
      step s = .refused .registerAccessNotWord) ∧
    (∀ off v, off % 4 = 0 → 256 ≤ off → s.inputs = .regWrite off 4 v :: rest →
      step s = .fault .registerOutsideWindow) ∧
    (∀ off, off % 4 = 0 → 256 ≤ off → s.inputs = .regRead off 4 :: rest →
      step s = .fault .registerOutsideWindow) ∧
    (∀ a b, 2 ^ s.params.bufAddrBits ≤ a → s.inputs = .bufWrite a b :: rest → step s = .fault .bufferOutOfRange) ∧
    (∀ a, 2 ^ s.params.bufAddrBits ≤ a → s.inputs = .bufRead a :: rest → step s = .fault .bufferOutOfRange)

/-- R70, R72, R361: while the NFC is idle the host's buffer is plain memory: a byte written is read back, every other byte
and every register stays. -/
def Obligations.HostBufferAccess : Prop :=
  ∀ (s : State) (a : Nat) (b : Byte) (rest : List Input), s.params.wf = true → memWf s.mem = true →
    s.regs.busy = false → a < 2 ^ s.params.bufAddrBits → s.inputs = .bufWrite a b :: .bufRead a :: rest →
    ∃ t, Sys2Proof.core.run 2 s = .next t ∧ t.readData = some (b.setWidth 32) ∧ memByte t.mem a = b ∧
      (∀ x, x ≠ a → memByte t.mem x = memByte s.mem x) ∧ memWf t.mem = true ∧
      t.regs = s.regs ∧ t.seq = s.seq ∧ t.chan = s.chan ∧ t.race = s.race ∧ t.racedReads = s.racedReads ∧
      t.inputs = rest

/-- R140, R141: the moves of the host's notation: `wr` and `rd` are whole-word accesses at the register's offset;
`wait_done` reads STATUS, goes on when DONE is 1, and while it is 0 lets the NFC take a step and reads again (the NFC's
share in the loop is the model's choice, log 29); `nfc.set_status a, v` puts `a` and `v` into REG_ARG's two fields before
it writes CMD. -/
def Obligations.HostNotationMoves : Prop :=
  (∀ (s : State) (rest : List Input), s.params.wf = true → s.inputs = .waitDone :: rest →
    (s.regs.done = true → step s = .next { s with inputs := rest, readData := some (readOffset s 0x04) }) ∧
    (s.regs.done = false →
      step s = .next { s with inputs := .nfc :: .waitDone :: rest, readData := some (readOffset s 0x04) })) ∧
  (∀ (s : State) (r : Reg) (v : Word) (rest : List Input), s.params.wf = true → s.inputs = wr r v :: rest →
    step s = .next (writeReg r v { s with inputs := rest })) ∧
  (∀ (s : State) (r : Reg) (rest : List Input), s.params.wf = true → s.inputs = rd r :: rest →
    step s = .next { s with inputs := rest, readData := some (readReg s r) }) ∧
  (∀ (s : State) (a v : Byte) (rest : List Input), s.params.wf = true → s.regs.busy = false →
    s.inputs = expand (.setStatus a v) ++ rest →
    ∃ t, Sys2Proof.core.run 2 s = .next t ∧ t.regs.regAddr = a ∧ t.regs.regValue = v ∧ t.seq.word = 0x04 ∧
      t.seq.phase = .start ∧ t.inputs = .waitDone :: rest)

/-! ### Reset -/

/-- R50, R340, R341: the machine right after reset: every register of the window reads 0, the interrupt is low, the
sequencer is at its reset values, nothing has been sent, and the NFC waits. -/
def Obligations.ResetState : Prop :=
  (∀ off, readOffset State.reset off = 0) ∧ irq State.reset = false ∧ State.reset.seq.phase = .idle ∧
  State.reset.seq.word = 0 ∧ State.reset.seq.ret = .poll ∧ State.reset.seq.cur = 0 ∧ State.reset.chan.sent = [] ∧
  step State.reset = .next State.reset

/-- R340, R341, R50: NFC reset at any time, between steps or during a Transceive: every register reads 0, the sequencer is at its
reset values, the interrupt is low, memory and parameters stay, and the NFC waits (R341). Between steps nothing reaches the channel; during a Transceive at most the frame
of the phase does, marked as cut off, and nothing of it is recorded. -/
def Obligations.NfcResetEffect : Prop :=
  ∀ (s : State) (rest : List Input), s.params.wf = true →
    (s.inputs = .reset :: rest →
      ∃ t, step s = .next t ∧ (∀ off, readOffset t off = 0) ∧ t.seq.phase = .idle ∧ t.seq.word = 0 ∧
        t.seq.ret = .poll ∧ t.seq.cur = 0 ∧ t.mem = s.mem ∧ t.chan = s.chan ∧ t.params = s.params ∧ t.inputs = rest ∧
        irq t = false ∧ t.regs.maxAttempts = 0 ∧ controllerStep t = .next t) ∧
    (s.inputs = .resetInTransceive :: rest →
      ∃ t, step s = .next t ∧ (∀ off, readOffset t off = 0) ∧ t.seq.phase = .idle ∧ t.seq.word = 0 ∧
        t.seq.ret = .poll ∧ t.seq.cur = 0 ∧ t.mem = s.mem ∧ t.params = s.params ∧ t.inputs = rest ∧
        (t.chan = s.chan ∨ ∃ i, phaseFrame s = some i ∧
          t.chan.sent = s.chan.sent ++
            [{ tx := encode s.params.profile i, n := respLen s.params.profile i, cut := true }]))

/-! ### The whole machine -/

/-- The invariant (R6, R21, R25, R29, R35, R40, R47, R48, R72, R241) holds at reset. -/
def Obligations.InvariantHoldsAtReset : Prop := Inv State.reset

/-- The invariant (R6, R21, R25, R29, R35, R40, R47, R48, R72, R241, and the canonical form of buffer memory) is kept by
every step, whoever takes it. -/
def Obligations.InvariantIsKeptByEveryStep : Prop := ∀ s t : State, Inv s → step s = .next t → Inv t

/-- R72, R111, R241: from a state of the invariant the machine never stops: every controller step, and every move of the
environment that the spec gives a step, answers a next state. -/
def Obligations.NeverStopsFromTheInvariant : Prop :=
  ∀ s : State, Inv s → (∀ e rest, s.inputs = e :: rest → legalInput s.params e = true) → ∃ t, step s = .next t

/-- R20, R46, R87: no step changes what the NFC is built with; no controller step changes a parameter register, CTRL, OVR or
the command word. -/
def Obligations.ParametersNeverChange : Prop :=
  (∀ s t : State, step s = .next t → t.params = s.params) ∧
  (∀ s t : State, controllerStep s = .next t → HostSideKept s t)

/-- R48: BUSY is 1 exactly when the phase is not IDLE, kept by every step and true at reset; and a controller step
performs at most one Transceive. -/
def Obligations.BusyExactlyWhileRunning : Prop :=
  (State.reset.regs.busy = true ↔ State.reset.seq.phase ≠ .idle) ∧
  (∀ s t : State, (s.regs.busy = true ↔ s.seq.phase ≠ .idle) → step s = .next t →
    (t.regs.busy = true ↔ t.seq.phase ≠ .idle)) ∧
  (∀ s t : State, controllerStep s = .next t → ∃ l, t.chan.sent = s.chan.sent ++ l ∧ l.length ≤ 1)

/-- R38: TXN_COUNT counts the Transceive calls of the current or last command modulo 2^32, a ChannelError included;
acceptance sets it to 0. -/
def Obligations.TxnCountCountsTransceives : Prop :=
  (∀ s t : State, controllerStep s = .next t →
    ∃ l : List Transaction, t.chan.sent = s.chan.sent ++ l ∧
      t.regs.txnCount.toNat = (s.regs.txnCount.toNat + l.length) % 2 ^ 32) ∧
  (∀ (w : Word) (s : State), (acceptCommand w s).regs.txnCount = 0 ∧ (acceptCommand w s).chan = s.chan) ∧
  (∀ s : State, readOffset s 0x38 = s.regs.txnCount)

/-- R78, R84, R193: a controller step that changes memory is an RD_CACHE step that counts a page in PAGES_DONE, and it
changes bytes of that page's slot only. -/
def Obligations.OnlyACompletedReadStores : Prop :=
  ∀ s t : State, controllerStep s = .next t → (∃ a, memByte t.mem a ≠ memByte s.mem a) →
    s.seq.phase = .rdCache ∧ t.regs.pagesDone = s.regs.pagesDone + 1 ∧
      MemKeptOutside (slotAddr s) s.params.profile.pageSizeBytes s t

/-- R350, I16: which host accesses race, and what a raced byte can be. A host write races exactly in a busy read command's
slots of index PAGES_DONE or above (the host's last byte there competes) and in a busy program command's slots (the bytes
that stood there compete); a host read races exactly in the former. A raced byte that is stored or programmed is its own
value or a competing one; a raced host read saw the old byte, or the new one where the command has stored it, and
is not settled while the command may still store it. What the
model does with each outcome is log 8. -/
def Obligations.RacedBytesAreOldOrNew : Prop :=
  (∀ (s : State) (a : Nat) (b : Byte), s.regs.busy = true →
    (readsPages s →
      (s.regs.bufAddr.toNat + s.regs.pagesDone.toNat * s.params.profile.pageSizeBytes ≤ a →
        a < s.regs.bufAddr.toNat + pagesWanted s * s.params.profile.pageSizeBytes →
        writeRace s a b = some b ∧ rivals (hostBufWrite a b s).race a = [b] ∧
        (hostBufRead a s).racedReads
          = s.racedReads ++ [{ addr := a, old := memByte s.mem a, new := none, draw := s.draws }]) ∧
      (a < s.regs.bufAddr.toNat + s.regs.pagesDone.toNat * s.params.profile.pageSizeBytes ∨
        s.regs.bufAddr.toNat + pagesWanted s * s.params.profile.pageSizeBytes ≤ a →
        writeRace s a b = none ∧ readRaces s a = false)) ∧
    (programsPages s → readRaces s a = false ∧
      (s.regs.bufAddr.toNat ≤ a → a < s.regs.bufAddr.toNat + pagesWanted s * s.params.profile.pageSizeBytes →
        writeRace s a b = some (memByte s.mem a) ∧
        rivals (hostBufWrite a b s).race a = memByte s.mem a :: rivals s.race a) ∧
      (a < s.regs.bufAddr.toNat ∨ s.regs.bufAddr.toNat + pagesWanted s * s.params.profile.pageSizeBytes ≤ a →
        writeRace s a b = none)) ∧
    (¬ readsPages s → ¬ programsPages s → writeRace s a b = none ∧ readRaces s a = false)) ∧
  (∀ (s : State) (a : Nat) (b : Byte), s.regs.busy = false → writeRace s a b = none ∧ readRaces s a = false) ∧
  (∀ (s : State) (a x : Nat) (b : Byte), x ≠ a → rivals (hostBufWrite a b s).race x = rivals s.race x) ∧
  (∀ (s : State) (r : List Byte) (k : Nat), memWf s.mem = true → r.length = s.params.profile.cu →
    k < s.params.profile.pageSizeBytes →
    r[k]? = some (memByte (storePage r s).mem (slotAddr s + k)) ∨
    memByte (storePage r s).mem (slotAddr s + k) ∈ rivals s.race (slotAddr s + k)) ∧
  (∀ (s : State) (k : Nat) (b : Byte), (slotData s)[k]? = some b →
    b = memByte s.mem (slotAddr s + k) ∨ b ∈ rivals s.race (slotAddr s + k)) ∧
  (∀ (s : State) (r : List Byte) (i : Nat) (e : RacedRead), s.racedReads[i]? = some e → r.length = s.params.profile.cu →
    ∃ e', (storePage r s).racedReads[i]? = some e' ∧ e' = { e with new := e'.new } ∧
      (∀ k, k < s.params.profile.pageSizeBytes → e.addr = slotAddr s + k → e'.new = r[k]?) ∧
      (e.addr < slotAddr s ∨ slotAddr s + s.params.profile.pageSizeBytes ≤ e.addr → e'.new = e.new)) ∧
  (∀ (s : State) (e : RacedRead),
    (∀ b, e.new = some b → racedReadSaw s e = some e.old ∨ racedReadSaw s e = some b) ∧
    (e.new = none → readRaces s e.addr = true → racedReadSaw s e = none) ∧
    (e.new = none → readRaces s e.addr = false → racedReadSaw s e = some e.old))

/-- R301, R300: which errors a command can end with, and that RESET, POLL and the one-frame commands carry no page while a
page command's error, but for INVALID_RANGE, carries one. -/
def Obligations.ErrorsACommandCanEndWith : Prop :=
  ∀ s t : State, Inv s → controllerStep s = .next t → s.seq.phase ≠ .idle → t.seq.phase = .idle →
    t.regs.errCode ≠ .none →
    (s.seq.word ∈ [0x02#32, 0x03#32, 0x04#32, 0x05#32, 0x06#32] →
      t.regs.errCode = .channelError ∧ t.regs.pageValid = false) ∧
    (s.seq.word ∈ [0x01#32, 0x07#32] →
      t.regs.errCode ≠ .invalidRange ∧ t.regs.errCode ≠ .illegalCommand ∧ t.regs.pageValid = false) ∧
    (s.seq.word ∈ [0x10#32, 0x11#32, 0x12#32, 0x20#32, 0x21#32] →
      t.regs.errCode ≠ .illegalCommand ∧ (t.regs.pageValid = false ↔ t.regs.errCode = .invalidRange)) ∧
    (s.seq.word ∉ commandWords → t.regs.errCode = .illegalCommand ∧ t.regs.pageValid = false) ∧
    t.regs.errCode ≠ .identityMismatch

/-- R164: a POLL_DELAY step changes the phase alone; and a delay follows a status read and precedes another: the step that
enters POLL_DELAY has just counted a read that leaves some of the budget. -/
def Obligations.DelayOnlyBetweenReads : Prop :=
  (∀ s : State, s.seq.phase = .pollDelay →
    controllerStep s = .next { s with seq := { s.seq with phase := .pollRead } }) ∧
  (∀ s t : State, controllerStep s = .next t → t.seq.phase = .pollDelay →
    s.seq.phase = .pollRead ∧ t.regs.pollCount = s.regs.pollCount + 1 ∧
      s.regs.pollCount.toNat + 1 < s.regs.maxAttempts.toNat)

/-! ### Whole runs -/

/-- R166, R167: a poll whose reads all report busy: after `N` of them below the budget it is about to read again with
POLL_COUNT = N; after as many as the budget it has raised TIMEOUT with POLL_COUNT = MAX_ATTEMPTS; and with a byte that is
not busy as read N + 1 the outcome is that byte's, with POLL_COUNT = N + 1. -/
def Obligations.PollIsBounded : Prop :=
  ∀ (s : State) (bs : List Byte) (rest : List Answer), s.params.wf = true → s.inputs = [] →
    s.seq.phase = .pollRead → s.regs.pollCount = 0 → AllBusy s.params.profile bs →
    (bs.length < s.regs.maxAttempts.toNat → s.chan.dev = .oracle (statusAnswers bs ++ rest) →
      ∃ t, Sys2Proof.core.run (2 * bs.length) s = .next t ∧ t.seq = s.seq ∧ t.regs.pollCount.toNat = bs.length ∧
        t.chan.dev = .oracle rest ∧ t.mem = s.mem ∧
        t.regs.txnCount = s.regs.txnCount + BitVec.ofNat 32 bs.length ∧ t.regs.eccMax = s.regs.eccMax ∧
        t.regs.lastEcc = s.regs.lastEcc ∧ HostSideKept s t) ∧
    (bs.length = s.regs.maxAttempts.toNat → 0 < bs.length → s.chan.dev = .oracle (statusAnswers bs ++ rest) →
      ∃ t, Sys2Proof.core.run (2 * bs.length - 1) s = .next t ∧ t.seq.phase = .idle ∧ t.regs.err = true ∧
        t.regs.errCode = .timeout ∧ t.regs.pollCount = s.regs.maxAttempts ∧ t.chan.dev = .oracle rest ∧
        (t.regs.pageValid = true ↔ s.seq.ret ≠ .poll ∧ s.seq.ret ≠ .reset)) ∧
    (∀ b, bs.length < s.regs.maxAttempts.toNat → s.chan.dev = .oracle (statusAnswers (bs ++ [b]) ++ rest) →
      b &&& s.params.profile.busyMask = 0 →
      ∃ t, Sys2Proof.core.run (2 * bs.length + 1) s = .next t ∧ t.regs.pollCount.toNat = bs.length + 1 ∧
        t.regs.statusRaw = b ∧ t.chan.dev = .oracle rest ∧
        (∀ e, decodeOutcome s.params.profile s.regs.eccCorrFatal b = .fail e →
          t.seq.phase = .idle ∧ t.regs.err = true ∧ t.regs.errCode = e) ∧
        (ReportsReady s b →
          (s.seq.ret = .poll ∨ s.seq.ret = .reset ∨ s.seq.ret = .erase → EndedOk t) ∧
          (s.seq.ret = .read → t.seq.phase = .rdCache) ∧
          (s.seq.ret = .prog → t.regs.pagesDone = s.regs.pagesDone + 1)))

/-- R168, R260, R200: POLL, RESET and ERASE_BLOCK that succeed after `N` busy reads: the frames, in order, and the counts. -/
def Obligations.PollResetAndEraseRuns : Prop :=
  ∀ (s : State) (bs : List Byte) (b : Byte) (rest : List Answer), AllBusy s.params.profile bs → ReportsReady s b →
    bs.length < s.regs.maxAttempts.toNat →
    (Accepted 0x07 s → s.chan.dev = .oracle (statusAnswers (bs ++ [b]) ++ rest) →
      ∃ t, Sys2Proof.core.run (2 * bs.length + 2) s = .next t ∧ EndedOk t ∧
        t.chan.sent = s.chan.sent ++ framesSent s.params.profile (List.replicate (bs.length + 1) (statusRead s.params.profile)) ∧
        t.regs.pollCount.toNat = bs.length + 1 ∧ t.regs.txnCount = BitVec.ofNat 32 (bs.length + 1) ∧
        t.regs.statusRaw = b ∧ t.mem = s.mem) ∧
    (Accepted 0x01 s → s.chan.dev = .oracle ([.bytes []] ++ statusAnswers (bs ++ [b]) ++ rest) →
      ∃ t, Sys2Proof.core.run (2 * bs.length + 3) s = .next t ∧ EndedOk t ∧
        t.chan.sent = s.chan.sent ++ framesSent s.params.profile
          (.fReset :: List.replicate (bs.length + 1) (statusRead s.params.profile)) ∧
        t.regs.pollCount.toNat = bs.length + 1 ∧ t.regs.txnCount = BitVec.ofNat 32 (bs.length + 2) ∧
        t.regs.statusRaw = b ∧ t.mem = s.mem) ∧
    (Accepted 0x12 s → s.regs.startPage.toNat < s.params.profile.pagesTotal →
      s.chan.dev = .oracle ([.bytes [], .bytes []] ++ statusAnswers (bs ++ [b]) ++ rest) →
      ∃ t, Sys2Proof.core.run (2 * bs.length + 4) s = .next t ∧ EndedOk t ∧
        t.chan.sent = s.chan.sent ++ framesSent s.params.profile
          (.fWriteEnable :: .fBlockErase s.regs.startPage.toNat ::
            List.replicate (bs.length + 1) (statusRead s.params.profile)) ∧
        t.regs.pollCount.toNat = bs.length + 1 ∧ t.regs.txnCount = BitVec.ofNat 32 (bs.length + 3) ∧
        t.regs.pagesDone = 0 ∧ t.mem = s.mem)

/-- R190, R73: READ_PAGE that succeeds after `N` busy reads: the frames in order, the page's bytes at BUF_ADDR and no other
byte changed, PAGES_DONE = 1, POLL_COUNT = k, TXN_COUNT = k + 2 for k = N + 1. -/
def Obligations.ReadPageDeliversThePage : Prop :=
  ∀ (s : State) (bs : List Byte) (b : Byte) (r : List Byte) (rest : List Answer), Accepted 0x10 s →
    rangeOk s s.regs.startPage.toNat 1 = true → AllBusy s.params.profile bs → ReportsReady s b →
    bs.length < s.regs.maxAttempts.toNat → r.length = s.params.profile.cu →
    s.chan.dev = .oracle ([.bytes []] ++ statusAnswers (bs ++ [b]) ++ [.bytes r] ++ rest) →
    ∃ t, Sys2Proof.core.run (2 * bs.length + 4) s = .next t ∧ EndedOk t ∧ t.regs.pagesDone = 1 ∧
      t.regs.pollCount.toNat = bs.length + 1 ∧ t.regs.txnCount = BitVec.ofNat 32 (bs.length + 3) ∧
      t.chan.sent = s.chan.sent ++ framesSent s.params.profile
        (.fPageReadToCache s.regs.startPage.toNat ::
          (List.replicate (bs.length + 1) (statusRead s.params.profile) ++ [.fReadFromCache])) ∧
      memRead t.mem s.regs.bufAddr.toNat s.params.profile.pageSizeBytes = r.take s.params.profile.pageSizeBytes ∧
      MemKeptOutside s.regs.bufAddr.toNat s.params.profile.pageSizeBytes s t

/-- R195: PROGRAM_PAGE that succeeds after `N` busy reads: the frames in order (the load carries the slot's bytes and the
pad), memory unchanged, PAGES_DONE = 1, POLL_COUNT = k, TXN_COUNT = k + 3 for k = N + 1. -/
def Obligations.ProgramPageSendsThePage : Prop :=
  ∀ (s : State) (bs : List Byte) (b : Byte) (rest : List Answer), Accepted 0x11 s →
    rangeOk s s.regs.startPage.toNat 1 = true → AllBusy s.params.profile bs → ReportsReady s b →
    bs.length < s.regs.maxAttempts.toNat →
    s.chan.dev = .oracle ([.bytes [], .bytes [], .bytes []] ++ statusAnswers (bs ++ [b]) ++ rest) →
    ∃ t, Sys2Proof.core.run (2 * bs.length + 5) s = .next t ∧ EndedOk t ∧ t.regs.pagesDone = 1 ∧
      t.regs.pollCount.toNat = bs.length + 1 ∧ t.regs.txnCount = BitVec.ofNat 32 (bs.length + 4) ∧
      t.chan.sent = s.chan.sent ++ framesSent s.params.profile
        ([.fWriteEnable, .fProgramLoad (slotUnit s 0), .fProgramExecute s.regs.startPage.toNat] ++
          List.replicate (bs.length + 1) (statusRead s.params.profile)) ∧
      t.mem = s.mem

/-- R231, R230: a command whose range check fails ends with INVALID_RANGE and no page, with zero transactions and no buffer
access, and is not retried. -/
def Obligations.RangeFailureDoesNothing : Prop :=
  ∀ (s : State) (w : Word), Accepted w s →
    ((w = 0x10 ∨ w = 0x11) ∧ rangeOk s s.regs.startPage.toNat 1 = false ∨
      (w = 0x20 ∨ w = 0x21) ∧ rangeOk s s.regs.startPage.toNat s.regs.pageCount.toNat = false ∨
      w = 0x12 ∧ s.params.profile.pagesTotal ≤ s.regs.startPage.toNat) →
    ∃ t, step s = .next t ∧ EndedWith .invalidRange none t ∧ t.regs.txnCount = 0 ∧ t.chan = s.chan ∧ t.mem = s.mem ∧
      ∀ k, Sys2Proof.core.run k t = .next t

/-- R232, R73, R233, R237: READ_RANGE over a device that is ready at each first read: page `i` of the answers stands in
slot `i`, the bytes after the slots and before them are untouched, the frames are those of the pages in ascending order,
and the counts are the range's. -/
def Obligations.ReadRangeFillsTheBuffer : Prop :=
  ∀ (s : State) (pages : List (List Byte)) (b : Byte) (rest : List Answer), Accepted 0x20 s →
    pages.length = s.regs.pageCount.toNat → rangeOk s s.regs.startPage.toNat pages.length = true →
    ReportsReady s b → s.regs.maxAttempts ≠ 0 → (∀ r ∈ pages, r.length = s.params.profile.cu) →
    s.chan.dev = .oracle (pages.flatMap (fun r => [.bytes [], .bytes [b], .bytes r]) ++ rest) →
    ∃ t, Sys2Proof.core.run (3 * pages.length + 1) s = .next t ∧ EndedOk t ∧ t.regs.pagesDone = s.regs.pageCount ∧
      t.regs.txnCount = BitVec.ofNat 32 (3 * pages.length) ∧
      t.chan.sent = s.chan.sent ++ framesSent s.params.profile
        ((List.range pages.length).flatMap fun i =>
          [.fPageReadToCache (s.regs.startPage.toNat + i), statusRead s.params.profile, .fReadFromCache]) ∧
      (∀ (i : Nat) (r : List Byte), pages[i]? = some r →
        memRead t.mem (s.regs.bufAddr.toNat + i * s.params.profile.pageSizeBytes) s.params.profile.pageSizeBytes
          = r.take s.params.profile.pageSizeBytes) ∧
      MemKeptOutside s.regs.bufAddr.toNat (pages.length * s.params.profile.pageSizeBytes) s t

/-- R235 for one kind of error: READ_RANGE whose page-select frame of page `s + i` meets a ChannelError, the pages before it
being read, stops there: FAIL_PAGE, PAGES_DONE = i, slots 0 to i - 1 keep their pages, everything else is unchanged, and no
frame is sent after the failing one. -/
def Obligations.ReadRangeStopsAtAChannelErrorOfASelect : Prop :=
  ∀ (s : State) (pages : List (List Byte)) (b : Byte) (rest : List Answer), Accepted 0x20 s →
    pages.length < s.regs.pageCount.toNat → rangeOk s s.regs.startPage.toNat s.regs.pageCount.toNat = true →
    ReportsReady s b → s.regs.maxAttempts ≠ 0 → (∀ r ∈ pages, r.length = s.params.profile.cu) →
    s.chan.dev = .oracle (pages.flatMap (fun r => [.bytes [], .bytes [b], .bytes r]) ++ [.channelError] ++ rest) →
    ∃ t, Sys2Proof.core.run (3 * pages.length + 2) s = .next t ∧
      EndedWith .channelError (some (s.regs.startPage.toNat + pages.length)) t ∧
      t.regs.pagesDone.toNat = pages.length ∧ t.chan.sent.length = s.chan.sent.length + 3 * pages.length + 1 ∧
      (∀ (i : Nat) (r : List Byte), pages[i]? = some r →
        memRead t.mem (s.regs.bufAddr.toNat + i * s.params.profile.pageSizeBytes) s.params.profile.pageSizeBytes
          = r.take s.params.profile.pageSizeBytes) ∧
      MemKeptOutside s.regs.bufAddr.toNat (pages.length * s.params.profile.pageSizeBytes) s t ∧
      ∀ k, Sys2Proof.core.run k t = .next t

/-- R236, R233: PROGRAM_RANGE over a device that is ready at each first read: each page is loaded from its own slot, in
ascending order, with the frames in order; memory is unchanged. -/
def Obligations.ProgramRangeSendsThePages : Prop :=
  ∀ (s : State) (b : Byte) (rest : List Answer), Accepted 0x21 s →
    rangeOk s s.regs.startPage.toNat s.regs.pageCount.toNat = true → ReportsReady s b → s.regs.maxAttempts ≠ 0 →
    s.chan.dev = .oracle ((List.range s.regs.pageCount.toNat).flatMap
      (fun _ => [.bytes [], .bytes [], .bytes [], .bytes [b]]) ++ rest) →
    ∃ t, Sys2Proof.core.run (4 * s.regs.pageCount.toNat + 1) s = .next t ∧ EndedOk t ∧
      t.regs.pagesDone = s.regs.pageCount ∧ t.regs.txnCount = BitVec.ofNat 32 (4 * s.regs.pageCount.toNat) ∧
      t.chan.sent = s.chan.sent ++ framesSent s.params.profile
        ((List.range s.regs.pageCount.toNat).flatMap fun i =>
          [.fWriteEnable, .fProgramLoad (slotUnit s i), .fProgramExecute (s.regs.startPage.toNat + i),
            statusRead s.params.profile]) ∧
      t.mem = s.mem

/-- R360, R362, R167: every accepted command ends, within a bound in its pages and MAX_ATTEMPTS, whatever the channel
answers. The bound is R360's with one step more (log 28). -/
def Obligations.EveryCommandEnds : Prop :=
  ∀ s : State, Inv s → s.inputs = [] → s.seq.phase = .start → endsWithin (stepBound s) s

/-- R238 with R95 to R97, for one page and a device that is not busy: a page programmed from one buffer and read into
another comes back byte for byte. The host's plan is the two commands with their parameter writes between. -/
def Obligations.ProgramThenReadRoundTrip : Prop :=
  ∀ (s : State) (dev : RefDevice) (target : Word), s.params.wf = true →
    s.params.profile.opcodesDistinct = true → s.seq.phase = .start → s.seq.word = 0x11 → s.regs.busy = true →
    s.race = [] → memWf s.mem = true → s.regs.pagesDone = 0 → s.regs.pollCount = 0 → s.regs.maxAttempts ≠ 0 →
    rangeOk s s.regs.startPage.toNat 1 = true →
    target.toNat + s.params.profile.pageSizeBytes ≤ 2 ^ s.params.bufAddrBits →
    s.chan.dev = .reference dev → dev.busyLeft = 0 → dev.busyScript = [] → dev.chanErr = [] → dev.eccOf = [] →
    dev.pfailPages = [] → dev.efail = false →
    s.inputs = List.replicate 5 .nfc ++ [wr .bufAddr target, wr .cmd 0x10] →
    ∃ t, Sys2Proof.core.run 11 s = .next t ∧ EndedOk t ∧
      memRead t.mem target.toNat s.params.profile.pageSizeBytes
        = memRead s.mem s.regs.bufAddr.toNat s.params.profile.pageSizeBytes ∧
      MemKeptOutside target.toNat s.params.profile.pageSizeBytes s t
end

