-- ==== Sys2Proof/Laws/Decode.lean ====
section
/-! SUPPORT. The laws of the byte helpers and of the field readers that decoding is made of (R9, R120, R121). -/

namespace Sys2Proof

@[simp] theorem beBytes_length : ∀ (n v : Nat), (beBytes n v).length = n
  | 0, _ => rfl
  | n + 1, v => by simp [beBytes, beBytes_length n]

theorem beValue_append (bs : List Byte) (b : Byte) : beValue (bs ++ [b]) = beValue bs * 256 + b.toNat := by
  simp [beValue]

/-- Big-endian bytes carry every value that fits (R9). -/
theorem beValue_beBytes : ∀ (n v : Nat), v < 2 ^ (8 * n) → beValue (beBytes n v) = v
  | 0, v, h => by
    simp only [Nat.mul_zero, Nat.pow_zero] at h
    simp [beBytes, beValue]; omega
  | n + 1, v, h => by
    have h' : v / 256 < 2 ^ (8 * n) := by
      rw [Nat.div_lt_iff_lt_mul (by norm_num)]
      calc v < 2 ^ (8 * (n + 1)) := h
        _ = 2 ^ (8 * n) * 256 := by rw [Nat.mul_add, Nat.pow_add]
    rw [beBytes, beValue_append, beValue_beBytes n _ h', BitVec.toNat_ofNat]
    omega

@[simp] theorem zeros_length (n : Nat) : (zeros n).length = n := by simp [zeros]

@[simp] theorem fill_length (n : Nat) (v : Byte) : (fill n v).length = n := by simp [fill]

@[simp] theorem allZero_zeros (n : Nat) : allZero (zeros n) = true := by simp [allZero, zeros]

theorem zeros_append (m n : Nat) : zeros m ++ zeros n = zeros (m + n) := by simp [zeros, List.replicate_append_replicate]

@[simp] theorem row_length (P : Profile) (p : Nat) : (row P p).length = P.pageAddrBytes + P.rowDummyBytes := by
  unfold row; split <;> simp [Nat.add_comm]

@[simp] theorem col_length (P : Profile) : (col P).length = P.colAddrBytes := by simp [col]

theorem atLeast_iff : ∀ (n : Nat) (bs : List Byte), atLeast n bs = true ↔ n ≤ bs.length
  | 0, _ => by simp [atLeast]
  | n + 1, [] => by simp [atLeast]
  | n + 1, b :: bs => by simp [atLeast, atLeast_iff n bs]

/-- A field read off the front of the bytes it was put in front of. -/
theorem takeExact_append {n : Nat} (front rest : List Byte) (h : front.length = n) :
    takeExact n (front ++ rest) = some (front, rest) := by
  subst h
  have : atLeast front.length (front ++ rest) = true := (atLeast_iff _ _).mpr (by simp)
  simp [takeExact, this]

theorem withField_append {n : Nat} (front rest : List Byte) (h : front.length = n)
    (k : List Byte → List Byte → Except DecodeError (Instr × List Byte)) :
    withField n (front ++ rest) k = k front rest := by
  simp [withField, takeExact_append front rest h]

theorem withZeros_append (n : Nat) (rest : List Byte) (i : Instr) : withZeros n (zeros n ++ rest) i = .ok (i, rest) := by
  simp [withZeros, withField_append (zeros n) rest (zeros_length n)]

/-- A row address read back: every page index that fits, in both dummy positions (R120). -/
theorem withRow_append (P : Profile) (p : Nat) (rest : List Byte) (mk : Nat → Instr) (h : rowFits P p = true) :
    withRow P (row P p ++ rest) mk = .ok (mk p, rest) := by
  have hp : p < 2 ^ (8 * P.pageAddrBytes) := by simpa [rowFits] using h
  unfold withRow row
  cases P.rowDummyPos with
  | low =>
    simp only [List.append_assoc]
    rw [withField_append _ _ (beBytes_length _ _), withZeros_append, beValue_beBytes _ _ hp]
  | high =>
    simp only [List.append_assoc]
    rw [withField_append _ _ (zeros_length _), if_pos (allZero_zeros _), withField_append _ _ (beBytes_length _ _),
      beValue_beBytes _ _ hp]

@[simp] theorem commandBytes_length (c : Nat) : (commandBytes c).length = 4 := rfl

end Sys2Proof
end

