-- ==== Sys2Proof/Laws/State.lean ====
section
/-! SUPPORT. One lemma per field of State per update, each true by unfolding; every operation's later lemmas rest on
these, so that no proof unfolds a record update. -/

namespace Sys2Proof.Machine

variable (s : State)

@[simp] theorem setPhase_params (ph : Phase) : (setPhase ph s).params = s.params := rfl
@[simp] theorem setPhase_regs (ph : Phase) : (setPhase ph s).regs = s.regs := rfl
@[simp] theorem setPhase_seq (ph : Phase) : (setPhase ph s).seq = { s.seq with phase := ph } := rfl
@[simp] theorem setPhase_mem (ph : Phase) : (setPhase ph s).mem = s.mem := rfl
@[simp] theorem setPhase_chan (ph : Phase) : (setPhase ph s).chan = s.chan := rfl
@[simp] theorem setPhase_inputs (ph : Phase) : (setPhase ph s).inputs = s.inputs := rfl
@[simp] theorem setPhase_readData (ph : Phase) : (setPhase ph s).readData = s.readData := rfl
@[simp] theorem setPhase_race (ph : Phase) : (setPhase ph s).race = s.race := rfl
@[simp] theorem setPhase_racedReads (ph : Phase) : (setPhase ph s).racedReads = s.racedReads := rfl
@[simp] theorem setPhase_draws (ph : Phase) : (setPhase ph s).draws = s.draws := rfl

@[simp] theorem setCur_params (n : Nat) : (setCur n s).params = s.params := rfl
@[simp] theorem setCur_regs (n : Nat) : (setCur n s).regs = s.regs := rfl
@[simp] theorem setCur_seq (n : Nat) : (setCur n s).seq = { s.seq with cur := n } := rfl
@[simp] theorem setCur_mem (n : Nat) : (setCur n s).mem = s.mem := rfl
@[simp] theorem setCur_chan (n : Nat) : (setCur n s).chan = s.chan := rfl
@[simp] theorem setCur_inputs (n : Nat) : (setCur n s).inputs = s.inputs := rfl
@[simp] theorem setCur_readData (n : Nat) : (setCur n s).readData = s.readData := rfl
@[simp] theorem setCur_race (n : Nat) : (setCur n s).race = s.race := rfl
@[simp] theorem setCur_racedReads (n : Nat) : (setCur n s).racedReads = s.racedReads := rfl
@[simp] theorem setCur_draws (n : Nat) : (setCur n s).draws = s.draws := rfl

@[simp] theorem setScratch_params (bs : List Byte) : (setScratch bs s).params = s.params := rfl
@[simp] theorem setScratch_regs (bs : List Byte) : (setScratch bs s).regs = s.regs := rfl
@[simp] theorem setScratch_seq (bs : List Byte) : (setScratch bs s).seq = { s.seq with scratch := bs } := rfl
@[simp] theorem setScratch_mem (bs : List Byte) : (setScratch bs s).mem = s.mem := rfl
@[simp] theorem setScratch_chan (bs : List Byte) : (setScratch bs s).chan = s.chan := rfl
@[simp] theorem setScratch_inputs (bs : List Byte) : (setScratch bs s).inputs = s.inputs := rfl
@[simp] theorem setScratch_readData (bs : List Byte) : (setScratch bs s).readData = s.readData := rfl
@[simp] theorem setScratch_race (bs : List Byte) : (setScratch bs s).race = s.race := rfl
@[simp] theorem setScratch_racedReads (bs : List Byte) : (setScratch bs s).racedReads = s.racedReads := rfl
@[simp] theorem setScratch_draws (bs : List Byte) : (setScratch bs s).draws = s.draws := rfl

@[simp] theorem setStatusRaw_params (b : Byte) : (setStatusRaw b s).params = s.params := rfl
@[simp] theorem setStatusRaw_regs (b : Byte) : (setStatusRaw b s).regs = { s.regs with statusRaw := b } := rfl
@[simp] theorem setStatusRaw_seq (b : Byte) : (setStatusRaw b s).seq = s.seq := rfl
@[simp] theorem setStatusRaw_mem (b : Byte) : (setStatusRaw b s).mem = s.mem := rfl
@[simp] theorem setStatusRaw_chan (b : Byte) : (setStatusRaw b s).chan = s.chan := rfl
@[simp] theorem setStatusRaw_inputs (b : Byte) : (setStatusRaw b s).inputs = s.inputs := rfl
@[simp] theorem setStatusRaw_readData (b : Byte) : (setStatusRaw b s).readData = s.readData := rfl
@[simp] theorem setStatusRaw_race (b : Byte) : (setStatusRaw b s).race = s.race := rfl
@[simp] theorem setStatusRaw_racedReads (b : Byte) : (setStatusRaw b s).racedReads = s.racedReads := rfl
@[simp] theorem setStatusRaw_draws (b : Byte) : (setStatusRaw b s).draws = s.draws := rfl

@[simp] theorem setOvr_params : (setOvr s).params = s.params := rfl
@[simp] theorem setOvr_regs : (setOvr s).regs = { s.regs with ovr := true } := rfl
@[simp] theorem setOvr_seq : (setOvr s).seq = s.seq := rfl
@[simp] theorem setOvr_mem : (setOvr s).mem = s.mem := rfl
@[simp] theorem setOvr_chan : (setOvr s).chan = s.chan := rfl
@[simp] theorem setOvr_inputs : (setOvr s).inputs = s.inputs := rfl
@[simp] theorem setOvr_readData : (setOvr s).readData = s.readData := rfl
@[simp] theorem setOvr_race : (setOvr s).race = s.race := rfl
@[simp] theorem setOvr_racedReads : (setOvr s).racedReads = s.racedReads := rfl
@[simp] theorem setOvr_draws : (setOvr s).draws = s.draws := rfl

@[simp] theorem countAttempt_params : (countAttempt s).params = s.params := rfl
@[simp] theorem countAttempt_regs : (countAttempt s).regs = { s.regs with pollCount := s.regs.pollCount + 1 } := rfl
@[simp] theorem countAttempt_seq : (countAttempt s).seq = s.seq := rfl
@[simp] theorem countAttempt_mem : (countAttempt s).mem = s.mem := rfl
@[simp] theorem countAttempt_chan : (countAttempt s).chan = s.chan := rfl
@[simp] theorem countAttempt_inputs : (countAttempt s).inputs = s.inputs := rfl
@[simp] theorem countAttempt_readData : (countAttempt s).readData = s.readData := rfl
@[simp] theorem countAttempt_race : (countAttempt s).race = s.race := rfl
@[simp] theorem countAttempt_racedReads : (countAttempt s).racedReads = s.racedReads := rfl
@[simp] theorem countAttempt_draws : (countAttempt s).draws = s.draws := rfl

@[simp] theorem countDraw_params : (countDraw s).params = s.params := rfl
@[simp] theorem countDraw_regs : (countDraw s).regs = s.regs := rfl
@[simp] theorem countDraw_seq : (countDraw s).seq = s.seq := rfl
@[simp] theorem countDraw_mem : (countDraw s).mem = s.mem := rfl
@[simp] theorem countDraw_chan : (countDraw s).chan = s.chan := rfl
@[simp] theorem countDraw_inputs : (countDraw s).inputs = s.inputs := rfl
@[simp] theorem countDraw_readData : (countDraw s).readData = s.readData := rfl
@[simp] theorem countDraw_race : (countDraw s).race = s.race := rfl
@[simp] theorem countDraw_racedReads : (countDraw s).racedReads = s.racedReads := rfl
@[simp] theorem countDraw_draws : (countDraw s).draws = s.draws + 1 := rfl

@[simp] theorem setIds_params (r : List Byte) : (setIds r s).params = s.params := rfl
@[simp] theorem setIds_regs (r : List Byte) :
    (setIds r s).regs = { s.regs with
      idMfr := BitVec.ofNat 32 (beValue (r.take s.params.profile.mfrIdBytes))
      idDev := BitVec.ofNat 32 (beValue ((r.drop s.params.profile.mfrIdBytes).take s.params.profile.devIdBytes)) } := rfl
@[simp] theorem setIds_seq (r : List Byte) : (setIds r s).seq = s.seq := rfl
@[simp] theorem setIds_mem (r : List Byte) : (setIds r s).mem = s.mem := rfl
@[simp] theorem setIds_chan (r : List Byte) : (setIds r s).chan = s.chan := rfl
@[simp] theorem setIds_inputs (r : List Byte) : (setIds r s).inputs = s.inputs := rfl
@[simp] theorem setIds_readData (r : List Byte) : (setIds r s).readData = s.readData := rfl
@[simp] theorem setIds_race (r : List Byte) : (setIds r s).race = s.race := rfl
@[simp] theorem setIds_racedReads (r : List Byte) : (setIds r s).racedReads = s.racedReads := rfl
@[simp] theorem setIds_draws (r : List Byte) : (setIds r s).draws = s.draws := rfl

@[simp] theorem raiseError_params (e : ErrCode) (page : Option Nat) : (raiseError e page s).params = s.params := rfl
@[simp] theorem raiseError_regs (e : ErrCode) (page : Option Nat) :
    (raiseError e page s).regs = { s.regs with
      errCode := e, failPage := failPageWord page, pageValid := page.isSome
      err := true, done := true, busy := false } := rfl
@[simp] theorem raiseError_seq (e : ErrCode) (page : Option Nat) :
    (raiseError e page s).seq = { s.seq with phase := .idle } := rfl
@[simp] theorem raiseError_mem (e : ErrCode) (page : Option Nat) : (raiseError e page s).mem = s.mem := rfl
@[simp] theorem raiseError_chan (e : ErrCode) (page : Option Nat) : (raiseError e page s).chan = s.chan := rfl
@[simp] theorem raiseError_inputs (e : ErrCode) (page : Option Nat) : (raiseError e page s).inputs = s.inputs := rfl
@[simp] theorem raiseError_readData (e : ErrCode) (page : Option Nat) :
    (raiseError e page s).readData = s.readData := rfl
@[simp] theorem raiseError_race (e : ErrCode) (page : Option Nat) : (raiseError e page s).race = s.race := rfl
@[simp] theorem raiseError_racedReads (e : ErrCode) (page : Option Nat) : (raiseError e page s).racedReads =
    s.racedReads := rfl
@[simp] theorem raiseError_draws (e : ErrCode) (page : Option Nat) : (raiseError e page s).draws = s.draws := rfl

@[simp] theorem finishOk_params : (finishOk s).params = s.params := rfl
@[simp] theorem finishOk_regs :
    (finishOk s).regs = { s.regs with
      errCode := .none, pageValid := false, failPage := 0, err := false, done := true, busy := false } := rfl
@[simp] theorem finishOk_seq : (finishOk s).seq = { s.seq with phase := .idle } := rfl
@[simp] theorem finishOk_mem : (finishOk s).mem = s.mem := rfl
@[simp] theorem finishOk_chan : (finishOk s).chan = s.chan := rfl
@[simp] theorem finishOk_inputs : (finishOk s).inputs = s.inputs := rfl
@[simp] theorem finishOk_readData : (finishOk s).readData = s.readData := rfl
@[simp] theorem finishOk_race : (finishOk s).race = s.race := rfl
@[simp] theorem finishOk_racedReads : (finishOk s).racedReads = s.racedReads := rfl
@[simp] theorem finishOk_draws : (finishOk s).draws = s.draws := rfl

@[simp] theorem acceptCommand_params (w : Word) : (acceptCommand w s).params = s.params := rfl
@[simp] theorem acceptCommand_regs (w : Word) :
    (acceptCommand w s).regs = { s.regs with
      done := false, err := false, eccMax := .noError, lastEcc := .noError
      errCode := .none, pageValid := false, failPage := 0, pagesDone := 0
      pollCount := 0, txnCount := 0, eccCorrCount := 0, busy := true } := rfl
@[simp] theorem acceptCommand_seq (w : Word) :
    (acceptCommand w s).seq = { s.seq with word := w, phase := .start } := rfl
@[simp] theorem acceptCommand_mem (w : Word) : (acceptCommand w s).mem = s.mem := rfl
@[simp] theorem acceptCommand_chan (w : Word) : (acceptCommand w s).chan = s.chan := rfl
@[simp] theorem acceptCommand_inputs (w : Word) : (acceptCommand w s).inputs = s.inputs := rfl
@[simp] theorem acceptCommand_readData (w : Word) : (acceptCommand w s).readData = s.readData := rfl
@[simp] theorem acceptCommand_race (w : Word) : (acceptCommand w s).race = [] := rfl
@[simp] theorem acceptCommand_racedReads (w : Word) : (acceptCommand w s).racedReads = [] := rfl
@[simp] theorem acceptCommand_draws (w : Word) : (acceptCommand w s).draws = s.draws := rfl

@[simp] theorem beginPoll_params (r : Ret) : (beginPoll r s).params = s.params := rfl
@[simp] theorem beginPoll_regs (r : Ret) : (beginPoll r s).regs = { s.regs with pollCount := 0 } := rfl
@[simp] theorem beginPoll_seq (r : Ret) : (beginPoll r s).seq = { s.seq with ret := r, phase := .pollRead } := rfl
@[simp] theorem beginPoll_mem (r : Ret) : (beginPoll r s).mem = s.mem := rfl
@[simp] theorem beginPoll_chan (r : Ret) : (beginPoll r s).chan = s.chan := rfl
@[simp] theorem beginPoll_inputs (r : Ret) : (beginPoll r s).inputs = s.inputs := rfl
@[simp] theorem beginPoll_readData (r : Ret) : (beginPoll r s).readData = s.readData := rfl
@[simp] theorem beginPoll_race (r : Ret) : (beginPoll r s).race = s.race := rfl
@[simp] theorem beginPoll_racedReads (r : Ret) : (beginPoll r s).racedReads = s.racedReads := rfl
@[simp] theorem beginPoll_draws (r : Ret) : (beginPoll r s).draws = s.draws := rfl

@[simp] theorem nfcReset_params : (nfcReset s).params = s.params := rfl
@[simp] theorem nfcReset_regs : (nfcReset s).regs = Regs.reset := rfl
@[simp] theorem nfcReset_seq : (nfcReset s).seq = Seq.resetWith (freeScratch s) := rfl
@[simp] theorem nfcReset_mem : (nfcReset s).mem = s.mem := rfl
@[simp] theorem nfcReset_chan : (nfcReset s).chan = s.chan := rfl
@[simp] theorem nfcReset_inputs : (nfcReset s).inputs = s.inputs := rfl
@[simp] theorem nfcReset_readData : (nfcReset s).readData = s.readData := rfl
@[simp] theorem nfcReset_race : (nfcReset s).race = [] := rfl
@[simp] theorem nfcReset_racedReads : (nfcReset s).racedReads = s.racedReads := rfl
@[simp] theorem nfcReset_draws : (nfcReset s).draws = s.draws + 1 := rfl

@[simp] theorem afterFrame_params (i : Instr) : (afterFrame i s).params = s.params := rfl
@[simp] theorem afterFrame_regs (i : Instr) :
    (afterFrame i s).regs = { s.regs with txnCount := s.regs.txnCount + 1 } := rfl
@[simp] theorem afterFrame_seq (i : Instr) : (afterFrame i s).seq = s.seq := rfl
@[simp] theorem afterFrame_mem (i : Instr) : (afterFrame i s).mem = s.mem := rfl
@[simp] theorem afterFrame_inputs (i : Instr) : (afterFrame i s).inputs = s.inputs := rfl
@[simp] theorem afterFrame_readData (i : Instr) : (afterFrame i s).readData = s.readData := rfl
@[simp] theorem afterFrame_race (i : Instr) : (afterFrame i s).race = s.race := rfl
@[simp] theorem afterFrame_racedReads (i : Instr) : (afterFrame i s).racedReads = s.racedReads := rfl
@[simp] theorem afterFrame_draws (i : Instr) : (afterFrame i s).draws = s.draws := rfl

@[simp] theorem storePage_params (r : List Byte) : (storePage r s).params = s.params := rfl
@[simp] theorem storePage_regs (r : List Byte) : (storePage r s).regs = s.regs := rfl
@[simp] theorem storePage_seq (r : List Byte) : (storePage r s).seq = { s.seq with scratch := r } := rfl
@[simp] theorem storePage_mem (r : List Byte) :
    (storePage r s).mem = memWrite s.mem (slotAddr s)
      (settleBytes s.race s.draws (slotAddr s) (r.take s.params.profile.pageSizeBytes)) := rfl
@[simp] theorem storePage_chan (r : List Byte) : (storePage r s).chan = s.chan := rfl
@[simp] theorem storePage_inputs (r : List Byte) : (storePage r s).inputs = s.inputs := rfl
@[simp] theorem storePage_readData (r : List Byte) : (storePage r s).readData = s.readData := rfl
@[simp] theorem storePage_race (r : List Byte) : (storePage r s).race = s.race := rfl
@[simp] theorem storePage_racedReads (r : List Byte) : (storePage r s).racedReads =
    s.racedReads.map (RacedRead.afterStore (slotAddr s) (r.take s.params.profile.pageSizeBytes)) := rfl
@[simp] theorem storePage_draws (r : List Byte) : (storePage r s).draws = s.draws + 1 := rfl

@[simp] theorem countPage_params : (countPage s).params = s.params := rfl
@[simp] theorem countPage_regs : (countPage s).regs = { s.regs with pagesDone := s.regs.pagesDone + 1 } := rfl
@[simp] theorem countPage_seq : (countPage s).seq = { s.seq with cur := s.seq.cur + 1 } := rfl
@[simp] theorem countPage_mem : (countPage s).mem = s.mem := rfl
@[simp] theorem countPage_chan : (countPage s).chan = s.chan := rfl
@[simp] theorem countPage_inputs : (countPage s).inputs = s.inputs := rfl
@[simp] theorem countPage_readData : (countPage s).readData = s.readData := rfl
@[simp] theorem countPage_race : (countPage s).race = s.race := rfl
@[simp] theorem countPage_racedReads : (countPage s).racedReads = s.racedReads := rfl
@[simp] theorem countPage_draws : (countPage s).draws = s.draws := rfl

@[simp] theorem decodeStatus_params (b : Byte) : (decodeStatus b s).params = s.params := rfl
@[simp] theorem decodeStatus_regs (b : Byte) : (decodeStatus b s).regs = decodeRegs s.params.profile b s.regs := rfl
@[simp] theorem decodeStatus_seq (b : Byte) : (decodeStatus b s).seq = s.seq := rfl
@[simp] theorem decodeStatus_mem (b : Byte) : (decodeStatus b s).mem = s.mem := rfl
@[simp] theorem decodeStatus_chan (b : Byte) : (decodeStatus b s).chan = s.chan := rfl
@[simp] theorem decodeStatus_inputs (b : Byte) : (decodeStatus b s).inputs = s.inputs := rfl
@[simp] theorem decodeStatus_readData (b : Byte) : (decodeStatus b s).readData = s.readData := rfl
@[simp] theorem decodeStatus_race (b : Byte) : (decodeStatus b s).race = s.race := rfl
@[simp] theorem decodeStatus_racedReads (b : Byte) : (decodeStatus b s).racedReads = s.racedReads := rfl
@[simp] theorem decodeStatus_draws (b : Byte) : (decodeStatus b s).draws = s.draws := rfl

@[simp] theorem writeCtrl_params (v : Word) : (writeCtrl v s).params = s.params := rfl
@[simp] theorem writeCtrl_regs (v : Word) :
    (writeCtrl v s).regs = { s.regs with irqEn := v.getLsbD 0, eccCorrFatal := v.getLsbD 1 } := rfl
@[simp] theorem writeCtrl_seq (v : Word) : (writeCtrl v s).seq = s.seq := rfl
@[simp] theorem writeCtrl_mem (v : Word) : (writeCtrl v s).mem = s.mem := rfl
@[simp] theorem writeCtrl_chan (v : Word) : (writeCtrl v s).chan = s.chan := rfl
@[simp] theorem writeCtrl_inputs (v : Word) : (writeCtrl v s).inputs = s.inputs := rfl
@[simp] theorem writeCtrl_readData (v : Word) : (writeCtrl v s).readData = s.readData := rfl
@[simp] theorem writeCtrl_race (v : Word) : (writeCtrl v s).race = s.race := rfl
@[simp] theorem writeCtrl_racedReads (v : Word) : (writeCtrl v s).racedReads = s.racedReads := rfl
@[simp] theorem writeCtrl_draws (v : Word) : (writeCtrl v s).draws = s.draws := rfl

@[simp] theorem writeStatus_params (v : Word) : (writeStatus v s).params = s.params := rfl
@[simp] theorem writeStatus_regs (v : Word) :
    (writeStatus v s).regs = { s.regs with
      done := s.regs.done && !v.getLsbD 1, ovr := s.regs.ovr && !v.getLsbD 3 } := rfl
@[simp] theorem writeStatus_seq (v : Word) : (writeStatus v s).seq = s.seq := rfl
@[simp] theorem writeStatus_mem (v : Word) : (writeStatus v s).mem = s.mem := rfl
@[simp] theorem writeStatus_chan (v : Word) : (writeStatus v s).chan = s.chan := rfl
@[simp] theorem writeStatus_inputs (v : Word) : (writeStatus v s).inputs = s.inputs := rfl
@[simp] theorem writeStatus_readData (v : Word) : (writeStatus v s).readData = s.readData := rfl
@[simp] theorem writeStatus_race (v : Word) : (writeStatus v s).race = s.race := rfl
@[simp] theorem writeStatus_racedReads (v : Word) : (writeStatus v s).racedReads = s.racedReads := rfl
@[simp] theorem writeStatus_draws (v : Word) : (writeStatus v s).draws = s.draws := rfl

@[simp] theorem waitDoneStep_params : (waitDoneStep s).params = s.params := rfl
@[simp] theorem waitDoneStep_regs : (waitDoneStep s).regs = s.regs := rfl
@[simp] theorem waitDoneStep_seq : (waitDoneStep s).seq = s.seq := rfl
@[simp] theorem waitDoneStep_mem : (waitDoneStep s).mem = s.mem := rfl
@[simp] theorem waitDoneStep_chan : (waitDoneStep s).chan = s.chan := rfl
@[simp] theorem waitDoneStep_inputs : (waitDoneStep s).inputs =
    if s.regs.done then s.inputs else .nfc :: .waitDone :: s.inputs := rfl
@[simp] theorem waitDoneStep_readData : (waitDoneStep s).readData = some (readReg s .status) := rfl
@[simp] theorem waitDoneStep_race : (waitDoneStep s).race = s.race := rfl
@[simp] theorem waitDoneStep_racedReads : (waitDoneStep s).racedReads = s.racedReads := rfl
@[simp] theorem waitDoneStep_draws : (waitDoneStep s).draws = s.draws := rfl

@[simp] theorem hostBufRead_params (a : Nat) : (hostBufRead a s).params = s.params := rfl
@[simp] theorem hostBufRead_regs (a : Nat) : (hostBufRead a s).regs = s.regs := rfl
@[simp] theorem hostBufRead_seq (a : Nat) : (hostBufRead a s).seq = s.seq := rfl
@[simp] theorem hostBufRead_mem (a : Nat) : (hostBufRead a s).mem = s.mem := rfl
@[simp] theorem hostBufRead_chan (a : Nat) : (hostBufRead a s).chan = s.chan := rfl
@[simp] theorem hostBufRead_inputs (a : Nat) : (hostBufRead a s).inputs = s.inputs := rfl
@[simp] theorem hostBufRead_readData (a : Nat) : (hostBufRead a s).readData =
    if readRaces s a then none else some ((memByte s.mem a).setWidth 32) := rfl
@[simp] theorem hostBufRead_race (a : Nat) : (hostBufRead a s).race = s.race := rfl
@[simp] theorem hostBufRead_racedReads (a : Nat) : (hostBufRead a s).racedReads = racedAfterRead s a := rfl
@[simp] theorem hostBufRead_draws (a : Nat) : (hostBufRead a s).draws = s.draws + 1 := rfl

@[simp] theorem hostBufWrite_params (a : Nat) (b : Byte) : (hostBufWrite a b s).params = s.params := rfl
@[simp] theorem hostBufWrite_regs (a : Nat) (b : Byte) : (hostBufWrite a b s).regs = s.regs := rfl
@[simp] theorem hostBufWrite_seq (a : Nat) (b : Byte) : (hostBufWrite a b s).seq = s.seq := rfl
@[simp] theorem hostBufWrite_mem (a : Nat) (b : Byte) : (hostBufWrite a b s).mem = memPut s.mem a b := rfl
@[simp] theorem hostBufWrite_chan (a : Nat) (b : Byte) : (hostBufWrite a b s).chan = s.chan := rfl
@[simp] theorem hostBufWrite_inputs (a : Nat) (b : Byte) : (hostBufWrite a b s).inputs = s.inputs := rfl
@[simp] theorem hostBufWrite_readData (a : Nat) (b : Byte) : (hostBufWrite a b s).readData = s.readData := rfl
@[simp] theorem hostBufWrite_race (a : Nat) (b : Byte) : (hostBufWrite a b s).race = raceAfterWrite s a b := rfl
@[simp] theorem hostBufWrite_racedReads (a : Nat) (b : Byte) : (hostBufWrite a b s).racedReads = s.racedReads := rfl
@[simp] theorem hostBufWrite_draws (a : Nat) (b : Byte) : (hostBufWrite a b s).draws = s.draws := rfl

@[simp] theorem cutFrame_params (i : Instr) : (cutFrame i s).params = s.params := rfl
@[simp] theorem cutFrame_regs (i : Instr) : (cutFrame i s).regs = s.regs := rfl
@[simp] theorem cutFrame_seq (i : Instr) : (cutFrame i s).seq = s.seq := rfl
@[simp] theorem cutFrame_mem (i : Instr) : (cutFrame i s).mem = s.mem := rfl
@[simp] theorem cutFrame_inputs (i : Instr) : (cutFrame i s).inputs = s.inputs := rfl
@[simp] theorem cutFrame_readData (i : Instr) : (cutFrame i s).readData = s.readData := rfl
@[simp] theorem cutFrame_race (i : Instr) : (cutFrame i s).race = s.race := rfl
@[simp] theorem cutFrame_racedReads (i : Instr) : (cutFrame i s).racedReads = s.racedReads := rfl
@[simp] theorem cutFrame_draws (i : Instr) : (cutFrame i s).draws = s.draws := rfl

@[simp] theorem afterFrame_sent (i : Instr) :
    (afterFrame i s).chan.sent = s.chan.sent ++ [frameTxn s.params.profile i] := rfl
@[simp] theorem afterFrame_dev (i : Instr) :
    (afterFrame i s).chan.dev = (deviceReply s.params.profile s.chan (frameTxn s.params.profile i)).2 := rfl
@[simp] theorem cutFrame_sent (i : Instr) :
    (cutFrame i s).chan.sent =
      s.chan.sent ++ [{ tx := encode s.params.profile i, n := respLen s.params.profile i, cut := true }] := rfl

@[simp] theorem freeScratch_length : (freeScratch s).length = s.params.profile.cu := by
  simp [freeScratch]

end Sys2Proof.Machine
end

