-- ==== Sys2Proof/Laws/Memory.lean ====
section
/-! SUPPORT. The laws of buffer memory (R72): a read after a write, every other byte untouched, and the canonical form,
which every memory operation keeps. -/

namespace Sys2Proof.Machine

/-! ### One byte -/

theorem memByte_memPut_same (m : Memory) (a : Nat) (b : Byte) (h : memWf m = true) : memByte (memPut m a b) a = b := by
  induction m with
  | nil => unfold memPut; split <;> simp_all [memByte]
  | cons c m ih =>
    obtain ⟨k, v⟩ := c
    simp only [memWf, Bool.and_eq_true, memAbove, List.all_eq_true, decide_eq_true_eq] at h
    obtain ⟨⟨-, hab⟩, hm⟩ := h
    have out : ∀ m' : Memory, (∀ c ∈ m', a < c.1) → memByte m' a = Memory.unlisted := by
      intro m'
      induction m' with
      | nil => intro _; rfl
      | cons c' m' ih' =>
        intro hm'
        have h1 := hm' c' (by simp)
        simp only [memByte]
        rw [if_neg (by omega), ih' (fun c hc => hm' c (by simp [hc]))]
    unfold memPut
    split
    · split
      · rename_i hlt hb
        rw [out _ (by
          intro c hc
          rcases List.mem_cons.mp hc with rfl | hc
          · exact hlt
          · exact lt_trans hlt (hab c hc)), hb]
      · simp [memByte]
    · split
      · split
        · rename_i hak hb
          subst hak
          rw [out m hab, hb]
        · simp [memByte]
      · rename_i _ hne
        simp only [memByte]
        rw [if_neg hne, ih hm]

theorem memByte_memPut_other (m : Memory) {a x : Nat} (b : Byte) (h : x ≠ a) :
    memByte (memPut m a b) x = memByte m x := by
  induction m with
  | nil => unfold memPut; split <;> simp [memByte, h]
  | cons c m ih =>
    obtain ⟨k, v⟩ := c
    unfold memPut
    split
    · split <;> simp [memByte, h]
    · split
      · rename_i _ hak
        subst hak
        split <;> simp [memByte, h]
      · simp only [memByte, ih]

/-! ### The canonical form -/

theorem memAbove_memPut {lo a : Nat} (m : Memory) (b : Byte) (hm : memAbove lo m = true) (ha : lo < a) :
    memAbove lo (memPut m a b) = true := by
  induction m with
  | nil => unfold memPut; split <;> simp [memAbove, ha]
  | cons c m ih =>
    obtain ⟨k, v⟩ := c
    simp only [memAbove, List.all_cons, Bool.and_eq_true, decide_eq_true_eq] at hm ih
    unfold memPut
    split
    · split <;> simp [memAbove, hm.1, ha, hm.2]
    · split
      · split <;> simp [memAbove, ha, hm.2]
      · simp [memAbove, hm.1, ih hm.2]

theorem memWf_memPut (m : Memory) (a : Nat) (b : Byte) (h : memWf m = true) : memWf (memPut m a b) = true := by
  induction m with
  | nil => unfold memPut; split <;> simp_all [memWf, memAbove]
  | cons c m ih =>
    obtain ⟨k, v⟩ := c
    have h0 := h
    simp only [memWf, Bool.and_eq_true, decide_eq_true_eq] at h
    obtain ⟨⟨hv, hab⟩, hm⟩ := h
    unfold memPut
    split
    · rename_i hlt
      split
      · exact h0
      · rename_i hb
        have : memAbove a m = true := by
          simp only [memAbove, List.all_eq_true, decide_eq_true_eq] at hab ⊢
          exact fun c hc => lt_trans hlt (hab c hc)
        simp only [memWf, hab, hm, Bool.and_true, Bool.and_eq_true, decide_eq_true_eq]
        refine ⟨⟨hb, ?_⟩, hv⟩
        simp only [memAbove, List.all_cons, Bool.and_eq_true, decide_eq_true_eq] at this ⊢
        exact ⟨hlt, this⟩
    · split
      · rename_i _ hak
        subst hak
        split
        · exact hm
        · rename_i hb
          simp [memWf, hb, hab, hm]
      · rename_i hlt hne
        have hka : k < a := by omega
        simp [memWf, hv, ih hm, memAbove_memPut m b hab hka]

theorem memPut_mem {m : Memory} {a : Nat} {b : Byte} {c : Host.Cell} (h : c ∈ memPut m a b) : c.1 = a ∨ c ∈ m := by
  induction m with
  | nil =>
    unfold memPut at h
    split at h <;> simp_all
  | cons d m ih =>
    obtain ⟨k, v⟩ := d
    unfold memPut at h
    split at h
    · split at h
      · exact .inr h
      · rcases List.mem_cons.mp h with rfl | h
        · exact .inl rfl
        · exact .inr h
    · split at h
      · split at h
        · exact .inr (List.mem_cons_of_mem _ h)
        · rcases List.mem_cons.mp h with rfl | h
          · exact .inl rfl
          · exact .inr (List.mem_cons_of_mem _ h)
      · rcases List.mem_cons.mp h with rfl | h
        · exact .inr (by simp)
        · rcases ih h with h | h
          · exact .inl h
          · exact .inr (List.mem_cons_of_mem _ h)

/-! ### Byte sequences -/

theorem memWf_memWrite (bs : List Byte) : ∀ (m : Memory) (a : Nat), memWf m = true → memWf (memWrite m a bs) = true := by
  induction bs with
  | nil => intro m a h; exact h
  | cons b bs ih => intro m a h; exact ih _ _ (memWf_memPut m a b h)

theorem memWrite_mem (bs : List Byte) : ∀ {m : Memory} {a : Nat} {c : Host.Cell}, c ∈ memWrite m a bs →
    (a ≤ c.1 ∧ c.1 < a + bs.length) ∨ c ∈ m := by
  induction bs with
  | nil => intro m a c h; exact .inr h
  | cons b bs ih =>
    intro m a c h
    rcases ih h with h | h
    · left; simp only [List.length_cons]; omega
    · rcases memPut_mem h with h | h
      · left; simp only [List.length_cons]; omega
      · exact .inr h

theorem memByte_memWrite_outside (bs : List Byte) : ∀ (m : Memory) {a x : Nat}, (x < a ∨ a + bs.length ≤ x) →
    memByte (memWrite m a bs) x = memByte m x := by
  induction bs with
  | nil => intro m a x _; rfl
  | cons b bs ih =>
    intro m a x h
    simp only [List.length_cons] at h
    rw [memWrite, ih _ (by omega), memByte_memPut_other _ _ (by omega)]

theorem memByte_memWrite_inside (bs : List Byte) : ∀ (m : Memory) {a k : Nat} {b : Byte}, memWf m = true →
    bs[k]? = some b → memByte (memWrite m a bs) (a + k) = b := by
  induction bs with
  | nil => intro m a k b _ h; simp at h
  | cons c bs ih =>
    intro m a k b hm h
    cases k with
    | zero =>
      rw [memWrite, memByte_memWrite_outside bs _ (by omega)]
      simp only [List.getElem?_cons_zero, Option.some.injEq] at h
      rw [Nat.add_zero, memByte_memPut_same m a c hm, h]
    | succ k =>
      rw [List.getElem?_cons_succ] at h
      have := ih (memPut m a c) (a := a + 1) (memWf_memPut m a c hm) h
      rw [memWrite, ← this]
      congr 1
      omega

@[simp] theorem memRead_length (m : Memory) : ∀ (n a : Nat), (memRead m a n).length = n
  | 0, _ => rfl
  | n + 1, a => by simp [memRead, memRead_length m n]

theorem memRead_getElem? (m : Memory) : ∀ (n a k : Nat), k < n → (memRead m a n)[k]? = some (memByte m (a + k))
  | 0, _, _, h => by omega
  | n + 1, a, 0, _ => by simp [memRead]
  | n + 1, a, k + 1, h => by
    rw [memRead, List.getElem?_cons_succ, memRead_getElem? m n (a + 1) k (by omega)]
    congr 2
    omega

theorem memRead_congr {m m' : Memory} : ∀ {n a : Nat}, (∀ x, a ≤ x → x < a + n → memByte m' x = memByte m x) →
    memRead m' a n = memRead m a n
  | 0, _, _ => rfl
  | n + 1, a, h => by
    rw [memRead, memRead, h a (by omega) (by omega), memRead_congr (n := n) (fun x h1 h2 => h x (by omega) (by omega))]

/-- What was written is read back. -/
theorem memRead_memWrite (m : Memory) (a : Nat) (bs : List Byte) (h : memWf m = true) :
    memRead (memWrite m a bs) a bs.length = bs := by
  apply List.ext_getElem?
  intro k
  by_cases hk : k < bs.length
  · rw [memRead_getElem? _ _ _ _ hk, List.getElem?_eq_getElem hk]
    rw [memByte_memWrite_inside bs m h (List.getElem?_eq_getElem hk)]
  · rw [List.getElem?_eq_none (by simpa using hk), List.getElem?_eq_none (by omega)]

/-! ### Raced bytes -/

@[simp] theorem rivals_nil (a : Nat) : rivals [] a = [] := rfl

@[simp] theorem settleByte_nil (d a : Nat) (v : Byte) : settleByte [] d a v = v := rfl

@[simp] theorem settleBytes_length (race : List (Nat × Byte)) (d : Nat) : ∀ (bs : List Byte) (a : Nat),
    (settleBytes race d a bs).length = bs.length
  | [], _ => rfl
  | b :: bs, a => by simp [settleBytes, settleBytes_length race d bs]

/-- Without a race, every byte is what was read or received. -/
@[simp] theorem settleBytes_nil (d : Nat) : ∀ (bs : List Byte) (a : Nat), settleBytes [] d a bs = bs
  | [], _ => rfl
  | b :: bs, a => by simp [settleBytes, settleBytes_nil d bs]

/-- A raced byte takes its own value or one of the competing ones (R350, I16: old or new). -/
theorem settleByte_bound (race : List (Nat × Byte)) (d a : Nat) (v : Byte) :
    settleByte race d a v = v ∨ settleByte race d a v ∈ rivals race a := by
  unfold settleByte
  generalize rivals race a = rs
  cases rs with
  | nil => exact .inl rfl
  | cons r rs =>
    dsimp only
    cases h : (v :: r :: rs)[Config.racePick d a % ((r :: rs).length + 1)]? with
    | none => exact .inl rfl
    | some x => simpa using List.mem_of_getElem? h

/-- Without the entries of `a` nothing competes there. -/
theorem rivals_filter_same (race : List (Nat × Byte)) (a : Nat) : rivals (race.filter (fun e => e.1 != a)) a = [] := by
  induction race with
  | nil => rfl
  | cons e es ih => by_cases h : e.1 = a <;> simp_all [rivals]

/-- Dropping the entries of `a` leaves every other address. -/
theorem rivals_filter_other (race : List (Nat × Byte)) {a x : Nat} (hx : x ≠ a) :
    rivals (race.filter (fun e => e.1 != a)) x = rivals race x := by
  induction race with
  | nil => rfl
  | cons e es ih =>
    by_cases h : e.1 = a
    · have : e.1 ≠ x := by omega
      simp_all [rivals]
    · by_cases h2 : e.1 = x <;> simp_all [rivals]

/-- A raced host read over which a byte was stored saw the old byte or that one (R350, I16). -/
theorem racedReadSaw_stored (s : State) {e : RacedRead} {b : Byte} (h : e.new = some b) :
    racedReadSaw s e = some e.old ∨ racedReadSaw s e = some b := by
  by_cases hp : Config.racePick e.draw e.addr % 2 = 0 <;> simp [racedReadSaw, h, hp]

/-- A raced host read over which nothing was stored saw the old byte, once nothing can be stored there any more. -/
theorem racedReadSaw_kept (s : State) {e : RacedRead} (h : e.new = none) :
    racedReadSaw s e = if readRaces s e.addr then none else some e.old := by
  simp [racedReadSaw, h]

/-- A store touches only the new byte of a raced read. -/
theorem RacedRead.afterStore_eq (lo : Nat) (bytes : List Byte) (e : RacedRead) :
    e.afterStore lo bytes = { e with new := (e.afterStore lo bytes).new } := by
  unfold RacedRead.afterStore
  split <;> rfl

/-- A store over the byte that was read makes the stored byte the new one. -/
theorem RacedRead.afterStore_inside {lo k : Nat} {bytes : List Byte} {e : RacedRead} (ha : e.addr = lo + k)
    (hk : k < bytes.length) : (e.afterStore lo bytes).new = bytes[k]? := by
  simp [RacedRead.afterStore, ha, hk]

/-- A store elsewhere leaves a raced read as it is. -/
theorem RacedRead.afterStore_outside {lo : Nat} {bytes : List Byte} {e : RacedRead}
    (h : e.addr < lo ∨ lo + bytes.length ≤ e.addr) : (e.afterStore lo bytes).new = e.new := by
  unfold RacedRead.afterStore
  split
  · simp [List.getElem?_eq_none (by omega : bytes.length ≤ e.addr - lo)]
  · rfl

end Sys2Proof.Machine
end

