-- ==== Sys2Proof/Laws/Ops.lean ====
section
/-! SUPPORT. What each shared operation can do, said once: sending a frame (R80, R302), starting on a range (R230), a
page's end (R234), a poll's attempt (R163), and which phase runs which instruction (R47). -/

namespace Sys2Proof.Machine

/-! ### The Command Channel -/

/-- R81: a response has the requested length. -/
theorem checkedResponse_length {n : Nat} {a : Answer} {r : List Byte} (h : checkedResponse n a = some r) :
    r.length = n := by
  cases a with
  | channelError => simp [checkedResponse] at h
  | bytes l =>
    simp only [checkedResponse] at h
    split at h
    · obtain rfl := Option.some.inj h; assumption
    · simp at h

theorem frameAnswer_length {i : Instr} {s : State} {r : List Byte} (h : frameAnswer i s = some r) :
    r.length = respLen s.params.profile i := checkedResponse_length h

theorem sendFrame_ok {i : Instr} {s : State} {r : List Byte} (page : Option Nat) (k : List Byte → State → State)
    (h : frameAnswer i s = some r) : sendFrame i page k s = k r (afterFrame i s) := by
  simp [sendFrame, h]

theorem sendFrame_error {i : Instr} {s : State} (page : Option Nat) (k : List Byte → State → State)
    (h : frameAnswer i s = none) : sendFrame i page k s = raiseError .channelError page (afterFrame i s) := by
  simp [sendFrame, h]

/-- Sending a frame either raises CHANNEL_ERROR or goes on with a response of the requested length. -/
theorem sendFrame_cases (i : Instr) (page : Option Nat) (k : List Byte → State → State) (s : State) :
    (frameAnswer i s = none ∧ sendFrame i page k s = raiseError .channelError page (afterFrame i s)) ∨
    (∃ r, frameAnswer i s = some r ∧ r.length = respLen s.params.profile i ∧
      sendFrame i page k s = k r (afterFrame i s)) := by
  cases h : frameAnswer i s with
  | none => exact .inl ⟨rfl, sendFrame_error page k h⟩
  | some r => exact .inr ⟨r, rfl, frameAnswer_length h, sendFrame_ok page k h⟩

/-- Whatever the channel and the continuation leave alone, sending a frame leaves alone. -/
theorem sendFrame_keeps {α : Type} (f : State → α) {i : Instr} {page : Option Nat} {k : List Byte → State → State}
    {s : State} (hafter : f (afterFrame i s) = f s) (hraise : ∀ t, f (raiseError .channelError page t) = f t)
    (hk : ∀ r t, f (k r t) = f t) : f (sendFrame i page k s) = f s := by
  rcases sendFrame_cases i page k s with ⟨-, h⟩ | ⟨r, -, -, h⟩
  · rw [h, hraise, hafter]
  · rw [h, hk, hafter]

theorem frameNext_ok {i : Instr} {s : State} (t : State) (h : i.wf s.params.profile = true) :
    frameNext i s t = .next t := by
  simp [frameNext, h]

theorem frameNext_next {i : Instr} {s t u : State} (h : frameNext i s t = .next u) : u = t := by
  unfold frameNext at h
  split at h
  · exact (Host.Outcome.next.inj h).symm
  · cases h

/-! ### Starting on a range and ending a page -/

theorem startPages_cases (count : Nat) (first : Phase) (s : State) :
    (rangeOk s s.regs.startPage.toNat count = false ∧ startPages count first s = raiseError .invalidRange none s) ∨
    (rangeOk s s.regs.startPage.toNat count = true ∧ count = 0 ∧
      startPages count first s = finishOk (setCur s.regs.startPage.toNat s)) ∨
    (rangeOk s s.regs.startPage.toNat count = true ∧ 0 < count ∧
      startPages count first s = setPhase first (setCur s.regs.startPage.toNat s)) := by
  unfold startPages
  cases h : rangeOk s s.regs.startPage.toNat count with
  | false => exact .inl ⟨rfl, rfl⟩
  | true =>
    rcases Nat.eq_zero_or_pos count with rfl | hc
    · exact .inr (.inl ⟨rfl, rfl, by simp⟩)
    · exact .inr (.inr ⟨rfl, hc, by simp [Nat.ne_of_gt hc]⟩)

theorem rangeOk_iff (s : State) (start count : Nat) : rangeOk s start count = true ↔
    start + count ≤ s.params.profile.pagesTotal ∧
    count * s.params.profile.pageSizeBytes ≤ s.regs.bufLen.toNat ∧
    s.regs.bufAddr.toNat + count * s.params.profile.pageSizeBytes ≤ s.params.bufSize := by
  simp [rangeOk, and_assoc]

/-- A page's end ends the command or starts the next page (R234). -/
theorem pageComplete_cases (s : State) :
    pageComplete s = finishOk (countPage s) ∨
    (s.regs.pagesDone + 1 ≠ s.regs.pageCount ∧ cmdCode s.seq.word ≠ 0x10 ∧ cmdCode s.seq.word ≠ 0x11 ∧
      ((cmdCode s.seq.word = 0x20 ∧ pageComplete s = setPhase .rdSelect (countPage s)) ∨
       (cmdCode s.seq.word ≠ 0x20 ∧ pageComplete s = setPhase .wrEnable (countPage s)))) := by
  unfold pageComplete
  split
  · exact .inl rfl
  · rename_i h
    push Not at h
    split
    · exact .inl rfl
    · rename_i hp
      split
      · rename_i hc
        exact .inr ⟨hp, h.1, h.2, .inl ⟨hc, rfl⟩⟩
      · rename_i hc
        exact .inr ⟨hp, h.1, h.2, .inr ⟨hc, rfl⟩⟩

/-! ### The poll -/

/-- The decoder's writes, field by field (R162): beside STATUS_RAW only the ECC registers, and those only where the
decode reaches the ECC field. -/
theorem decodeRegs_eq (P : Profile) (b : Byte) (r : Regs) : decodeRegs P b r =
    { r with
      statusRaw := b
      lastEcc := if reachesEcc P b then severity P b else r.lastEcc
      eccMax := if reachesEcc P b then sevMax r.eccMax (severity P b) else r.eccMax
      eccCorrCount := if reachesEcc P b then bumpCorrected (severity P b) r.eccCorrCount else r.eccCorrCount } := by
  unfold decodeRegs
  split <;> rfl

@[simp] theorem decodeRegs_irqEn (P : Profile) (b : Byte) (r : Regs) :
    (decodeRegs P b r).irqEn = r.irqEn := by rw [decodeRegs_eq]
@[simp] theorem decodeRegs_eccCorrFatal (P : Profile) (b : Byte) (r : Regs) :
    (decodeRegs P b r).eccCorrFatal = r.eccCorrFatal := by rw [decodeRegs_eq]
@[simp] theorem decodeRegs_busy (P : Profile) (b : Byte) (r : Regs) :
    (decodeRegs P b r).busy = r.busy := by rw [decodeRegs_eq]
@[simp] theorem decodeRegs_done (P : Profile) (b : Byte) (r : Regs) :
    (decodeRegs P b r).done = r.done := by rw [decodeRegs_eq]
@[simp] theorem decodeRegs_err (P : Profile) (b : Byte) (r : Regs) :
    (decodeRegs P b r).err = r.err := by rw [decodeRegs_eq]
@[simp] theorem decodeRegs_ovr (P : Profile) (b : Byte) (r : Regs) :
    (decodeRegs P b r).ovr = r.ovr := by rw [decodeRegs_eq]
@[simp] theorem decodeRegs_startPage (P : Profile) (b : Byte) (r : Regs) :
    (decodeRegs P b r).startPage = r.startPage := by rw [decodeRegs_eq]
@[simp] theorem decodeRegs_pageCount (P : Profile) (b : Byte) (r : Regs) :
    (decodeRegs P b r).pageCount = r.pageCount := by rw [decodeRegs_eq]
@[simp] theorem decodeRegs_bufAddr (P : Profile) (b : Byte) (r : Regs) :
    (decodeRegs P b r).bufAddr = r.bufAddr := by rw [decodeRegs_eq]
@[simp] theorem decodeRegs_bufLen (P : Profile) (b : Byte) (r : Regs) :
    (decodeRegs P b r).bufLen = r.bufLen := by rw [decodeRegs_eq]
@[simp] theorem decodeRegs_maxAttempts (P : Profile) (b : Byte) (r : Regs) :
    (decodeRegs P b r).maxAttempts = r.maxAttempts := by rw [decodeRegs_eq]
@[simp] theorem decodeRegs_pollDelay (P : Profile) (b : Byte) (r : Regs) :
    (decodeRegs P b r).pollDelay = r.pollDelay := by rw [decodeRegs_eq]
@[simp] theorem decodeRegs_regAddr (P : Profile) (b : Byte) (r : Regs) :
    (decodeRegs P b r).regAddr = r.regAddr := by rw [decodeRegs_eq]
@[simp] theorem decodeRegs_regValue (P : Profile) (b : Byte) (r : Regs) :
    (decodeRegs P b r).regValue = r.regValue := by rw [decodeRegs_eq]
@[simp] theorem decodeRegs_errCode (P : Profile) (b : Byte) (r : Regs) :
    (decodeRegs P b r).errCode = r.errCode := by rw [decodeRegs_eq]
@[simp] theorem decodeRegs_pageValid (P : Profile) (b : Byte) (r : Regs) :
    (decodeRegs P b r).pageValid = r.pageValid := by rw [decodeRegs_eq]
@[simp] theorem decodeRegs_failPage (P : Profile) (b : Byte) (r : Regs) :
    (decodeRegs P b r).failPage = r.failPage := by rw [decodeRegs_eq]
@[simp] theorem decodeRegs_pagesDone (P : Profile) (b : Byte) (r : Regs) :
    (decodeRegs P b r).pagesDone = r.pagesDone := by rw [decodeRegs_eq]
@[simp] theorem decodeRegs_pollCount (P : Profile) (b : Byte) (r : Regs) :
    (decodeRegs P b r).pollCount = r.pollCount := by rw [decodeRegs_eq]
@[simp] theorem decodeRegs_txnCount (P : Profile) (b : Byte) (r : Regs) :
    (decodeRegs P b r).txnCount = r.txnCount := by rw [decodeRegs_eq]
@[simp] theorem decodeRegs_idMfr (P : Profile) (b : Byte) (r : Regs) :
    (decodeRegs P b r).idMfr = r.idMfr := by rw [decodeRegs_eq]
@[simp] theorem decodeRegs_idDev (P : Profile) (b : Byte) (r : Regs) :
    (decodeRegs P b r).idDev = r.idDev := by rw [decodeRegs_eq]
@[simp] theorem decodeRegs_statusRaw (P : Profile) (b : Byte) (r : Regs) :
    (decodeRegs P b r).statusRaw = b := by rw [decodeRegs_eq]

/-- What a status decode can report (R161): never an outcome outside the taxonomy. -/
theorem decodeOutcome_fail {P : Profile} {fatal : Bool} {b : Byte} {e : ErrCode}
    (h : decodeOutcome P fatal b = .fail e) :
    e = .eraseFailure ∨ e = .programFailure ∨ e = .uncorrectableEcc ∨ (e = .correctedEccFatal ∧ fatal = true) := by
  unfold decodeOutcome at h
  split at h
  · cases h
  · split at h
    · cases h; simp
    · split at h
      · cases h; simp
      · split at h
        · cases h; simp
        · split at h
          · cases h; simp_all
          · cases h
        · cases h

/-- Acting on a status byte: another attempt, TIMEOUT, a reported failure, or the continuation (R163). -/
theorem pollReceive_cases (b : Byte) (s : State) :
    (decodeOutcome s.params.profile s.regs.eccCorrFatal b = .busy ∧
      s.regs.pollCount.toNat < s.regs.maxAttempts.toNat ∧
      pollReceive b s = setPhase .pollDelay (decodeStatus b s)) ∨
    (decodeOutcome s.params.profile s.regs.eccCorrFatal b = .busy ∧
      s.regs.maxAttempts.toNat ≤ s.regs.pollCount.toNat ∧
      pollReceive b s = raiseError .timeout (pollPage s) (decodeStatus b s)) ∨
    (∃ e, decodeOutcome s.params.profile s.regs.eccCorrFatal b = .fail e ∧
      pollReceive b s = raiseError e (pollPage s) (decodeStatus b s)) ∨
    (∃ v, decodeOutcome s.params.profile s.regs.eccCorrFatal b = .ready v ∧
      pollReceive b s = continuePoll (decodeStatus b s)) := by
  have hpg : pollPage (decodeStatus b s) = pollPage s := rfl
  unfold pollReceive
  cases h : decodeOutcome s.params.profile s.regs.eccCorrFatal b with
  | busy =>
    by_cases hlt : s.regs.pollCount.toNat < s.regs.maxAttempts.toNat
    · exact .inl ⟨rfl, hlt, by simp [pollDecide, hlt]⟩
    · exact .inr (.inl ⟨rfl, by omega, by simp [pollDecide, hpg, hlt]⟩)
  | fail e => exact .inr (.inr (.inl ⟨e, rfl, by simp [pollDecide, hpg]⟩))
  | ready v => exact .inr (.inr (.inr ⟨v, rfl, rfl⟩))

theorem le_sevMax_right (u v : Severity) : sevCode v ≤ sevCode (sevMax u v) := by
  unfold sevMax; split <;> omega

/-! ### Parameters -/

theorem params_wf_iff (c : Params) : c.wf = true ↔ 1 ≤ c.bufAddrBits ∧ c.bufAddrBits ≤ 32 ∧ c.profile.wf = true := by
  simp [Params.wf]

theorem profile_wf_iff (P : Profile) : P.wf = true ↔
    1 ≤ P.pageSizeBytes ∧ 1 ≤ P.pagesTotal ∧ 1 ≤ P.pageAddrBytes ∧ 1 ≤ P.colAddrBytes ∧ P.eccShift ≤ 7 ∧
    P.pagesTotal - 1 < 2 ^ (8 * P.pageAddrBytes) ∧ P.pagesTotal ≤ 2 ^ 32 ∧
    P.busyMask ≠ 0 ∧ P.efailMask ≠ 0 ∧ P.pfailMask ≠ 0 ∧ P.eccShiftFits = true ∧ P.eccZeroIsNone = true ∧
    1 ≤ P.mfrIdBytes ∧ P.mfrIdBytes ≤ 4 ∧ 1 ≤ P.devIdBytes ∧ P.devIdBytes ≤ 4 := by
  simp [Profile.wf, Profile.checks]

/-- Under a well-formed profile every page of the device fits the row address and FAIL_PAGE (R21, R120). -/
theorem page_fits {c : Params} (h : c.wf = true) {p : Nat} (hp : p < c.profile.pagesTotal) :
    rowFits c.profile p = true ∧ (BitVec.ofNat 32 p).toNat = p := by
  have h1 := (profile_wf_iff _).mp ((params_wf_iff _).mp h).2.2
  obtain ⟨-, -, -, -, -, h2, h3, -⟩ := h1
  refine ⟨by simp only [rowFits, decide_eq_true_eq]; omega, ?_⟩
  rw [BitVec.toNat_ofNat, Nat.mod_eq_of_lt (by omega)]

@[simp] theorem loadUnit_length (s : State) : (loadUnit s).length = s.params.profile.cu := by
  simp [loadUnit, slotData, Profile.cu]

/-! ### The slots of the busy command (R73, R350) -/

theorem slotUse_reads {s : State} (h : readsPages s) : slotUse s = .reads (pagesWanted s) := by
  rcases h with h | h <;> simp [slotUse, decodeCommand, cmdCode, pagesWanted, h]

theorem slotUse_programs {s : State} (h : programsPages s) : slotUse s = .programs (pagesWanted s) := by
  rcases h with h | h <;> simp [slotUse, decodeCommand, cmdCode, pagesWanted, h]

theorem slotUse_other {s : State} (hr : ¬ readsPages s) (hp : ¬ programsPages s) : slotUse s = .noSlots := by
  have named : ∀ c : Nat, s.seq.word.toNat = c → s.seq.word = BitVec.ofNat 32 c := fun c hc => by simp [← hc]
  have h10 : s.seq.word.toNat ≠ 0x10 := fun h => hr (.inl (named _ h))
  have h20 : s.seq.word.toNat ≠ 0x20 := fun h => hr (.inr (named _ h))
  have h11 : s.seq.word.toNat ≠ 0x11 := fun h => hp (.inl (named _ h))
  have h21 : s.seq.word.toNat ≠ 0x21 := fun h => hp (.inr (named _ h))
  unfold slotUse decodeCommand cmdCode
  by_cases hw : s.seq.word.toNat / 256 = 0
  · rw [if_pos hw, Nat.mod_eq_of_lt (by omega)]
    generalize s.seq.word.toNat = n at *
    split <;> first | rfl | (rename_i h; split at h <;> simp_all)
  · rw [if_neg hw]

/-! ### Which phase runs what -/

theorem controllerStep_frame {s : State} {i : Instr} (h : phaseFrame s = some i) : controllerStep s = exec i s := by
  have hf : frameStep s = exec i s := by simp [frameStep, h]
  unfold controllerStep
  unfold phaseFrame at h
  cases hp : s.seq.phase <;> simp_all

theorem controllerStep_start {s : State} (h : s.seq.phase = .start) : controllerStep s = startStep s := by
  simp [controllerStep, h]

theorem step_eq {s : State} (h : s.params.wf = true) :
    step s = match s.inputs with
      | [] => controllerStep s
      | e :: rest => inputStep e { s with inputs := rest } := by
  unfold step machineStep
  exact if_pos h

end Sys2Proof.Machine
end

