-- ==== Sys2Proof/Laws/PerInstr.lean ====
section
/-! SUPPORT. One lemma per row of the opcode table: the instruction's encoding has the length that the spec gives it,
whatever the profile. A command word has four bytes (R110); a frame's length depends on the profile only (R125 to
R135). -/

namespace Sys2Proof.Laws.EncodedLength

/-- The length in bytes that R110 and R125 to R135 give each row. -/
def specLength (P : Profile) : Instr → Nat
  | .reset => 4
  | .identify => 4
  | .getStatus => 4
  | .setStatus => 4
  | .writeEnable => 4
  | .writeDisable => 4
  | .poll => 4
  | .readPage => 4
  | .programPage => 4
  | .eraseBlock => 4
  | .readRange => 4
  | .programRange => 4
  | .fPageReadToCache _ => 1 + (P.pageAddrBytes + P.rowDummyBytes)
  | .fReadFromCache => 1 + P.colAddrBytes + P.cacheReadDummyBytes
  | .fProgramLoad _ => 1 + P.colAddrBytes + P.cu
  | .fProgramExecute _ => 1 + (P.pageAddrBytes + P.rowDummyBytes)
  | .fBlockErase _ => 1 + (P.pageAddrBytes + P.rowDummyBytes)
  | .fGetStatus _ => 2
  | .fSetStatus _ _ => 3
  | .fReset => 1
  | .fWriteEnable => 1
  | .fWriteDisable => 1
  | .fReadId => 1 + P.idDummyBytes

/-- A well-formed instruction's encoding has the row's length, under every profile. -/
def Statement (i : Instr) : Prop := ∀ P : Profile, i.wf P = true → (encode P i).length = specLength P i

theorem reset : Statement (.reset) := fun _ _ => rfl

theorem identify : Statement (.identify) := fun _ _ => rfl

theorem getStatus : Statement (.getStatus) := fun _ _ => rfl

theorem setStatus : Statement (.setStatus) := fun _ _ => rfl

theorem writeEnable : Statement (.writeEnable) := fun _ _ => rfl

theorem writeDisable : Statement (.writeDisable) := fun _ _ => rfl

theorem poll : Statement (.poll) := fun _ _ => rfl

theorem readPage : Statement (.readPage) := fun _ _ => rfl

theorem programPage : Statement (.programPage) := fun _ _ => rfl

theorem eraseBlock : Statement (.eraseBlock) := fun _ _ => rfl

theorem readRange : Statement (.readRange) := fun _ _ => rfl

theorem programRange : Statement (.programRange) := fun _ _ => rfl

theorem fPageReadToCache (p : Nat) : Statement (.fPageReadToCache p) := by
  intro P _; simp [encode, specLength, Nat.add_comm]

theorem fReadFromCache : Statement (.fReadFromCache) := by
  intro P _; simp [encode, specLength]; omega

theorem fProgramLoad (d : List Byte) : Statement (.fProgramLoad d) := by
  intro P h
  have h' : d.length = P.cu := by simpa [Instr.wf] using h
  simp [encode, specLength, h']; omega

theorem fProgramExecute (p : Nat) : Statement (.fProgramExecute p) := by
  intro P _; simp [encode, specLength, Nat.add_comm]

theorem fBlockErase (p : Nat) : Statement (.fBlockErase p) := by
  intro P _; simp [encode, specLength, Nat.add_comm]

theorem fGetStatus (a : Byte) : Statement (.fGetStatus a) := fun _ _ => rfl

theorem fSetStatus (a v : Byte) : Statement (.fSetStatus a v) := fun _ _ => rfl

theorem fReset : Statement (.fReset) := fun _ _ => rfl

theorem fWriteEnable : Statement (.fWriteEnable) := fun _ _ => rfl

theorem fWriteDisable : Statement (.fWriteDisable) := fun _ _ => rfl

theorem fReadId : Statement (.fReadId) := by
  intro P _; simp [encode, specLength, Nat.add_comm]

end Sys2Proof.Laws.EncodedLength
end

