-- ==== Sys2Proof/Tests/Slice0.lean ====
section
/-! SUPPORT. The model's own tests. Expected results are taken from spec/: the rules' examples, the vectors W1 to W7 and
V-* of spec/95_test_vectors.md, or hand calculation from the rule named. Then one witness, or one for each clause, for the
hypotheses of every statement. -/

namespace Sys2Proof.Machine.Test

open Sys2Proof Sys2Proof.Machine

/-- P_T of spec/95_test_vectors.md. -/
def pT : Profile := { pRef with pageSizeBytes := 4, spareBytes := 2, pagesTotal := 4 }

/-- A small machine at phase `ph` of the command word `w`: page 3 (the last), one page or two, BUF_ADDR 0x100. -/
def at_ (ph : Phase) (w : Word) (answers : List Answer) : State where
  params := { profile := pT, bufAddrBits := 32, delayUnit := 1, regBase := 0 }
  regs := { Regs.reset with
    busy := decide (ph ≠ .idle), startPage := 3, pageCount := 1, bufAddr := 0x100, bufLen := 4, maxAttempts := 4 }
  seq := { phase := ph, word := w, ret := .poll, cur := 3, scratch := zeros 6 }
  mem := [(0x100, 0xDE), (0x101, 0xAD), (0x102, 0xBE), (0x103, 0xEF), (0x104, 0xEE)]
  chan := { sent := [], dev := .oracle answers }
  inputs := []
  readData := none
  race := []
  racedReads := []
  draws := 0

/-- The outcome is a next state with the property. -/
def nextIs (o : Host.Outcome State Fault Refusal) (p : State → Bool) : Bool :=
  match o with
  | .next t => p t
  | .fault _ => false
  | .refused _ => false

/-- The outcome is this refusal. -/
def refusedWith (o : Host.Outcome State Fault Refusal) (r : Refusal) : Bool :=
  match o with
  | .next _ => false
  | .fault _ => false
  | .refused r' => decide (r' = r)

/-- The outcome is this fault. -/
def faultedWith (o : Host.Outcome State Fault Refusal) (r : Fault) : Bool :=
  match o with
  | .next _ => false
  | .fault r' => decide (r' = r)
  | .refused _ => false

/-- What the host reads at an offset after the outcome. -/
def readsAfter (o : Host.Outcome State Fault Refusal) (off : Nat) (v : Word) : Bool :=
  nextIs o fun t => decide (readOffset t off = v)

/-- The bytes of the frames on the channel. -/
def frames (s : State) : List (List Byte) := s.chan.sent.map Transaction.tx

/-! ### Decoding: a word written out for every constructor -/

/-- R111's table. -/
theorem test_decode_commands :
    [0x01, 0x02, 0x03, 0x04, 0x05, 0x06, 0x07, 0x10, 0x11, 0x12, 0x20, 0x21].map (decodeTableWord 32) =
      [some .reset, some .identify, some .getStatus, some .setStatus, some .writeEnable, some .writeDisable, some .poll,
       some .readPage, some .programPage, some .eraseBlock, some .readRange, some .programRange] := by decide

/-- V-E1 to V-E4, and R112's ranges at their ends. -/
theorem test_decode_illegal :
    [0x00, 0x08, 0xFF, 0x110, 0x0F, 0x13, 0x1F, 0x22, 0x80000010].map (decodeTableWord 32) = List.replicate 9 none := by
  decide

/-- The frames under P_T of spec/95_test_vectors.md section 1, a byte string each. -/
theorem test_decode_frames :
    [[0x13, 0x00, 0x03, 0x00], [0x03, 0x00, 0x00, 0x00], [0x02, 0x00, 0x00, 0xDE, 0xAD, 0xBE, 0xEF, 0xFF, 0xFF],
     [0x10, 0x00, 0x02, 0x00], [0xD8, 0x00, 0x01, 0x00], [0x0F, 0xC0], [0x1F, 0xA0, 0x55], [0xFF], [0x06], [0x04],
     [0x9F, 0x00]].map (fun bs => (decodeFrame pT bs).toOption) =
      [some (.fPageReadToCache 3, []), some (.fReadFromCache, []),
       some (.fProgramLoad [0xDE, 0xAD, 0xBE, 0xEF, 0xFF, 0xFF], []), some (.fProgramExecute 2, []),
       some (.fBlockErase 1, []), some (.fGetStatus 0xC0, []), some (.fSetStatus 0xA0 0x55, []), some (.fReset, []),
       some (.fWriteEnable, []), some (.fWriteDisable, []), some (.fReadId, [])] := by decide

/-- Frames that are too short, of no opcode, or with a dummy or column byte that is not zero. -/
theorem test_decode_frames_refused :
    [[], [0x13, 0x00, 0x03], [0x13, 0x00, 0x03, 0x01], [0x03, 0x01, 0x00, 0x00], [0x55], [0x9F, 0x01]].map
      (fun bs => (decodeFrame pT bs).toOption) = List.replicate 6 none := by decide

/-- V-E6, V-E7, V-E8. -/
theorem test_row_address :
    row pRef 0x1234 = [0x12, 0x34, 0x00] ∧ row { pRef with rowDummyPos := .high } 0x1234 = [0x00, 0x12, 0x34] ∧
    row { pRef with pageAddrBytes := 3, rowDummyBytes := 0 } 3 = [0x00, 0x00, 0x03] := by decide

/-- The example of R190: a frame of four bytes with P_REF; and of R195: an execute frame. -/
theorem test_encode_rows :
    encode pRef (.fPageReadToCache 1) = [0x13, 0x00, 0x01, 0x00] ∧
    encode pRef (.fProgramExecute 2) = [0x10, 0x00, 0x02, 0x00] ∧ respLen pRef .fReadFromCache = 2112 := by decide

/-! ### Well-formedness: each check refuses a term that breaks it -/

/-- P_REF and P_T are well-formed. -/
theorem test_wf_accepts : pRef.wf = true ∧ pT.wf = true ∧ Params.reference.wf = true := by decide

/-- R20's field ranges, and R21 (b) to (g), one profile broken for each check. -/
theorem test_wf_refuses_profiles :
    ({ pT with pageSizeBytes := 0 } : Profile).wf = false ∧ ({ pT with pagesTotal := 0 } : Profile).wf = false ∧
    ({ pT with pageAddrBytes := 0 } : Profile).wf = false ∧ ({ pT with colAddrBytes := 0 } : Profile).wf = false ∧
    ({ pT with eccShift := 8 } : Profile).wf = false ∧ ({ pT with pagesTotal := 65537 } : Profile).wf = false ∧
    ({ pT with pagesTotal := 2 ^ 32 + 1, pageAddrBytes := 5 } : Profile).wf = false ∧
    ({ pT with busyMask := 0 } : Profile).wf = false ∧ ({ pT with efailMask := 0 } : Profile).wf = false ∧
    ({ pT with pfailMask := 0 } : Profile).wf = false ∧ ({ pT with eccShift := 3 } : Profile).wf = false ∧
    ({ pT with eccMap := [(0, .corrected)] } : Profile).wf = false ∧
    ({ pT with mfrIdBytes := 0 } : Profile).wf = false ∧ ({ pT with mfrIdBytes := 5 } : Profile).wf = false ∧
    ({ pT with devIdBytes := 0 } : Profile).wf = false ∧ ({ pT with devIdBytes := 5 } : Profile).wf = false := by decide

/-- R6: BUF_ADDR_BITS is 1..32. -/
theorem test_wf_refuses_params :
    ({ Params.reference with bufAddrBits := 0 } : Params).wf = false ∧
    ({ Params.reference with bufAddrBits := 33 } : Params).wf = false ∧
    ({ Params.reference with profile := { pT with busyMask := 0 } } : Params).wf = false := by decide

/-- R9, R120, R127: a page index of 2^16 and data of the wrong length have no encoding under P_T. -/
theorem test_wf_refuses_instructions :
    Instr.wf pT (.fPageReadToCache 65535) = true ∧ Instr.wf pT (.fPageReadToCache 65536) = false ∧
    Instr.wf pT (.fProgramExecute 65536) = false ∧ Instr.wf pT (.fBlockErase 65536) = false ∧
    Instr.wf pT (.fProgramLoad (zeros 5)) = false ∧ Instr.wf pT (.fProgramLoad (zeros 6)) = true := by decide

/-- R21: an NFC of an ill-formed profile takes no step. -/
theorem test_step_refuses_ill_formed :
    refusedWith (step { at_ .idle 0 [] with params := { Params.reference with bufAddrBits := 0 } })
      .illFormedProfile = true := by decide

/-! ### One step of each instruction -/

/-- R260. -/
theorem test_reset : nextIs (exec .reset (at_ .start 0x01 [])) (fun t => decide (t.seq.phase = .rstSend)) = true := by decide

/-- R262. -/
theorem test_identify : nextIs (exec .identify (at_ .start 0x02 [])) (fun t => decide (t.seq.phase = .single)) = true := by
  decide

/-- R170. -/
theorem test_getStatus : nextIs (exec .getStatus (at_ .start 0x03 [])) (fun t => decide (t.seq.phase = .single)) = true := by
  decide

/-- R264. -/
theorem test_setStatus : nextIs (exec .setStatus (at_ .start 0x04 [])) (fun t => decide (t.seq.phase = .single)) = true := by
  decide

/-- R266. -/
theorem test_writeEnable :
    nextIs (exec .writeEnable (at_ .start 0x05 [])) (fun t => decide (t.seq.phase = .single)) = true := by decide

/-- R268. -/
theorem test_writeDisable :
    nextIs (exec .writeDisable (at_ .start 0x06 [])) (fun t => decide (t.seq.phase = .single)) = true := by decide

/-- R168, R163. -/
theorem test_poll :
    nextIs (exec .poll (at_ .start 0x07 [])) (fun t => decide (t.seq.phase = .pollRead ∧ t.seq.ret = .poll)) = true := by
  decide

/-- V-T7: the last legal page. -/
theorem test_readPage_last :
    nextIs (exec .readPage (at_ .start 0x10 [])) (fun t => decide (t.seq.phase = .rdSelect ∧ t.seq.cur = 3)) = true := by
  decide

/-- V-T5: page 4 of 4; STATUS 0x006 and RESULT 0x006. -/
theorem test_readPage_out_of_range :
    (let s := at_ .start 0x10 []
     let o := exec .readPage { s with regs := { s.regs with startPage := 4 } }
     readsAfter o 0x28 0x006 && readsAfter o 0x04 0x006) = true := by decide

/-- V-T18: BUF_LEN 0. -/
theorem test_programPage_short_buffer :
    (let s := at_ .start 0x11 []
     readsAfter (exec .programPage { s with regs := { s.regs with bufLen := 0 } }) 0x28 0x006) = true := by decide

/-- R195, R196. -/
theorem test_programPage :
    nextIs (exec .programPage (at_ .start 0x11 [])) (fun t => decide (t.seq.phase = .wrEnable)) = true := by decide

/-- V-T22: the buffer registers are not read. -/
theorem test_eraseBlock :
    (let s := at_ .start 0x12 []
     nextIs (exec .eraseBlock { s with regs := { s.regs with bufLen := 0, bufAddr := 0xFFFFFFFF } })
       (fun t => decide (t.seq.phase = .wrEnable ∧ t.seq.cur = 3))) = true := by decide

/-- V-T21: page 4 of 4. -/
theorem test_eraseBlock_out_of_range :
    (let s := at_ .start 0x12 []
     readsAfter (exec .eraseBlock { s with regs := { s.regs with startPage := 4 } }) 0x28 0x006) = true := by decide

/-- V-R4: an empty range at the device's end. -/
theorem test_readRange_empty :
    (let s := at_ .start 0x20 []
     let o := exec .readRange { s with regs := { s.regs with startPage := 4, pageCount := 0 } }
     readsAfter o 0x28 0 && readsAfter o 0x04 0x002) = true := by decide

/-- V-R6: no wrap. -/
theorem test_readRange_no_wrap :
    (let s := at_ .start 0x20 []
     readsAfter (exec .readRange { s with regs := { s.regs with startPage := 0xFFFFFFFF, pageCount := 2, bufLen := 8 } })
       0x28 0x006) = true := by decide

/-- R236: c pages of an exact buffer. -/
theorem test_programRange :
    (let s := at_ .start 0x21 []
     nextIs (exec .programRange { s with regs := { s.regs with startPage := 2, pageCount := 2, bufLen := 8 } })
       (fun t => decide (t.seq.phase = .wrEnable ∧ t.seq.cur = 2))) = true := by decide

/-- V-R5: an empty range past the device's end. -/
theorem test_programRange_empty_out_of_range :
    (let s := at_ .start 0x21 []
     readsAfter (exec .programRange { s with regs := { s.regs with startPage := 5, pageCount := 0 } }) 0x28 0x006)
      = true := by decide

/-- V-T7: SEL(3), then the poll of RET_READ. -/
theorem test_fPageReadToCache :
    nextIs (exec (.fPageReadToCache 3) (at_ .rdSelect 0x10 [.bytes []]))
      (fun t => decide (frames t = [[0x13, 0x00, 0x03, 0x00]] ∧ t.seq.phase = .pollRead ∧ t.seq.ret = .read)) = true := by
  decide

/-- V-T8, for page 3: SEL -> ChannelError. -/
theorem test_fPageReadToCache_error :
    (let o := exec (.fPageReadToCache 3) (at_ .rdSelect 0x10 [.channelError])
     readsAfter o 0x28 0x101 && readsAfter o 0x2C 3 && readsAfter o 0x38 1) = true := by decide

/-- V-T7: page 3's bytes go to 0x100..0x103, the next byte stays; STATUS 0x002. -/
theorem test_fReadFromCache :
    (let o := exec .fReadFromCache (at_ .rdCache 0x10 [.bytes [0x30, 0x31, 0x32, 0x33, 0x34, 0x35]])
     nextIs o (fun t => decide (memRead t.mem 0x100 5 = [0x30, 0x31, 0x32, 0x33, 0xEE])) &&
       readsAfter o 0x04 0x002 && readsAfter o 0x30 1) = true := by decide

/-- V-T9, for page 3: the buffer is unchanged; a response of the wrong length is a ChannelError too (R81). -/
theorem test_fReadFromCache_short :
    (let o := exec .fReadFromCache (at_ .rdCache 0x10 [.bytes [0x30, 0x31, 0x32, 0x33]])
     nextIs o (fun t => decide (memRead t.mem 0x100 4 = [0xDE, 0xAD, 0xBE, 0xEF])) && readsAfter o 0x28 0x101) = true := by
  decide

/-- V-T13: LOAD(DE AD BE EF) with the pad, from phase WR_LOAD. -/
theorem test_fProgramLoad :
    nextIs (controllerStep (at_ .wrLoad 0x11 [.bytes []]))
      (fun t => decide (frames t = [[0x02, 0x00, 0x00, 0xDE, 0xAD, 0xBE, 0xEF, 0xFF, 0xFF]] ∧ t.seq.phase = .wrExec))
      = true := by decide

/-- V-T17, for page 3. -/
theorem test_fProgramLoad_error :
    readsAfter (controllerStep (at_ .wrLoad 0x11 [.channelError])) 0x28 0x101 = true := by decide

/-- V-T13: EXEC(3). -/
theorem test_fProgramExecute :
    nextIs (exec (.fProgramExecute 3) (at_ .wrExec 0x11 [.bytes []]))
      (fun t => decide (frames t = [[0x10, 0x00, 0x03, 0x00]] ∧ t.seq.ret = .prog)) = true := by decide

/-- V-T19: ERASE(3). -/
theorem test_fBlockErase :
    nextIs (exec (.fBlockErase 3) (at_ .erErase 0x12 [.bytes []]))
      (fun t => decide (frames t = [[0xD8, 0x00, 0x03, 0x00]] ∧ t.seq.ret = .erase)) = true := by decide

/-- V-P12: STATUS_RAW 0x12, the ECC registers stay 0. -/
theorem test_fGetStatus_raw :
    (let o := controllerStep (at_ .single 0x03 [.bytes [0x12]])
     readsAfter o 0x3C 0x12 && readsAfter o 0x04 0x002 && readsAfter o 0x48 0) = true := by decide

/-- V-P10: a poll's read of 0x10 under the non-fatal policy: STATUS 0x052. -/
theorem test_fGetStatus_poll :
    (let o := controllerStep (at_ .pollRead 0x07 [.bytes [0x10]])
     readsAfter o 0x04 0x052 && readsAfter o 0x48 1 && readsAfter o 0x34 1) = true := by decide

/-- V-C7: SS(A0, 55) from REG_ARG. -/
theorem test_fSetStatus :
    (let s := at_ .single 0x04 [.bytes []]
     nextIs (controllerStep { s with regs := { s.regs with regAddr := 0xA0, regValue := 0x55 } })
       (fun t => decide (frames t = [[0x1F, 0xA0, 0x55]] ∧ t.regs.done = true))) = true := by decide

/-- V-C1, its first frame. -/
theorem test_fReset :
    nextIs (exec .fReset (at_ .rstSend 0x01 [.bytes []]))
      (fun t => decide (frames t = [[0xFF]] ∧ t.seq.ret = .reset ∧ t.seq.phase = .pollRead)) = true := by decide

/-- V-C3. -/
theorem test_fReset_error :
    readsAfter (exec .fReset (at_ .rstSend 0x01 [.channelError])) 0x28 0x001 = true := by decide

/-- R196: ERASE_BLOCK's write-enable goes on to ER_ERASE, a program's to WR_LOAD. -/
theorem test_fWriteEnable :
    nextIs (exec .fWriteEnable (at_ .wrEnable 0x12 [.bytes []])) (fun t => decide (t.seq.phase = .erErase)) = true ∧
    nextIs (exec .fWriteEnable (at_ .wrEnable 0x21 [.bytes []])) (fun t => decide (t.seq.phase = .wrLoad)) = true := by
  decide

/-- V-C8, its first frame. -/
theorem test_fWriteEnable_single :
    nextIs (exec .fWriteEnable (at_ .single 0x05 [.bytes []])) (fun t => decide (frames t = [[0x06]])) = true := by decide

/-- V-C9, its first frame. -/
theorem test_fWriteDisable :
    nextIs (controllerStep (at_ .single 0x06 [.bytes []])) (fun t => decide (frames t = [[0x04]] ∧ t.regs.done = true))
      = true := by decide

/-- V-C4. -/
theorem test_fReadId :
    (let o := controllerStep (at_ .single 0x02 [.bytes [0xEF, 0xAA, 0x21]])
     readsAfter o 0x40 0xEF && readsAfter o 0x44 0xAA21 && readsAfter o 0x28 0) = true := by decide

/-- V-E11: the ids at widths 2 and 2. -/
theorem test_fReadId_wide :
    (let s := at_ .single 0x02 [.bytes [0xC8, 0xD1, 0x00, 0x7F]]
     let o := exec .fReadId { s with params :=
       { s.params with profile := { pT with mfrIdBytes := 2, devIdBytes := 2 } } }
     readsAfter o 0x40 0xC8D1 && readsAfter o 0x44 0x7F) = true := by decide

/-! ### The poll, the decoder and the registers -/

/-- V-D1 to V-D14. -/
theorem test_decoder :
    [0x00, 0x01, 0x0D, 0x31, 0x04, 0x0C, 0x08, 0x28, 0x10, 0x20, 0x30, 0x02, 0xC0, 0x12].map (decodeOutcome pRef false) =
      [.ready .noError, .busy, .busy, .busy, .fail .eraseFailure, .fail .eraseFailure, .fail .programFailure,
       .fail .programFailure, .ready .corrected, .fail .uncorrectableEcc, .fail .uncorrectableEcc, .ready .noError,
       .ready .noError, .ready .corrected] ∧
    decodeOutcome pRef true 0x10 = .fail .correctedEccFatal := by decide

/-- V-P1: MAX_ATTEMPTS 0. -/
theorem test_poll_no_budget :
    (let s := at_ .pollRead 0x07 []
     let o := controllerStep { s with regs := { s.regs with maxAttempts := 0 } }
     readsAfter o 0x28 0x002 && readsAfter o 0x38 0 && readsAfter o 0x04 0x006) = true := by decide

/-- V-P2: MAX_ATTEMPTS 1 and a busy byte. -/
theorem test_poll_timeout :
    (let s := at_ .pollRead 0x07 [.bytes [0x01]]
     let o := controllerStep { s with regs := { s.regs with maxAttempts := 1 } }
     readsAfter o 0x28 0x002 && readsAfter o 0x34 1 && readsAfter o 0x38 1) = true := by decide

/-- V-C10, V-C11, V-C12. -/
theorem test_register_widths :
    readOffset (writeOffset 0x00 0xFFFFFFFF (at_ .idle 0 [])) 0x00 = 0x3 ∧
    readOffset (writeOffset 0x24 0xFFFFFFFF (at_ .idle 0 [])) 0x24 = 0xFFFF ∧
    readOffset (writeOffset 0x14 0x12345678
      { at_ .idle 0 [] with params := { profile := pT, bufAddrBits := 16, delayUnit := 1, regBase := 0 } }) 0x14
      = 0x5678 := by decide

/-- V-C15, V-C16: a write while busy sets OVR; a 1 to bit 3 of STATUS clears it. -/
theorem test_ovr :
    (let t := writeOffset 0x0C 3 (at_ .rdSelect 0x10 [])
     decide (readOffset t 0x0C = 3 ∧ t.regs.ovr = true ∧ (writeOffset 0x04 0x8 t).regs.ovr = false)) = true := by decide

/-- V-C19: acceptance keeps OVR and STATUS_RAW. -/
theorem test_acceptance_keeps :
    (let s := at_ .idle 0 []
     let t := writeOffset 0x08 0x05 { s with regs := { s.regs with done := true, ovr := true, statusRaw := 0x12 } }
     decide (readOffset t 0x04 = 0x009 ∧ readOffset t 0x3C = 0x12 ∧ t.seq.phase = .start)) = true := by decide

/-- R23, R43: regAt and regOffset agree, and the offset after the last register is reserved. -/
theorem test_register_map :
    ([Reg.ctrl, .status, .cmd, .startPage, .pageCount, .bufAddr, .bufLen, .maxAttempts, .pollDelay, .regArg, .result,
      .failPage, .pagesDone, .pollCount, .txnCount, .statusRaw, .idMfr, .idDev, .eccCorrCount].all
        fun r => decide (regAt (regOffset r) = some r)) = true ∧ regAt 0x4C = none := by decide

/-- R141: `nfc.erase_block 3` is a write of START_PAGE, the command and the wait. -/
theorem test_pseudo_erase :
    hostProgram [.eraseBlock 3, .setStatus 0xA0 0x55] =
      [.regWrite 0x0C 4 3, .regWrite 0x08 4 0x12, .waitDone, .regWrite 0x24 4 0x55A0, .regWrite 0x08 4 0x04, .waitDone] := by
  decide

/-- R140: the loop goes on when DONE is 1, and lets the NFC step while it is 0. -/
theorem test_wait_done :
    nextIs (step { at_ .idle 0 [] with inputs := [.waitDone] }) (fun t => decide (t.inputs = [.nfc, .waitDone])) = true ∧
    (let s := at_ .idle 0 []
     nextIs (step { s with regs := { s.regs with done := true }, inputs := [.waitDone] })
       (fun t => decide (t.inputs = [] ∧ t.readData = some 0x2))) = true := by decide

/-- R96: `busy_left` 1, the latch and ECC value 1 make 0x13, and the read takes one from `busy_left`. -/
theorem test_reference_device_status :
    (let rd : RefDevice :=
      { arr := [], cache := zeros 6, wel := true, efail := false, pfail := false, ecc := 1, busyLeft := 1, feat := []
        id := [0xEF, 0xAA, 0x21], busyScript := [], eccOf := [], pfailPages := [], efailPages := [], chanErr := []
        txns := 0, ppb := 2 }
     let a := rdTransaction pT rd [0x0F, 0xC0]
     decide (a.1 = .bytes [0x13] ∧ a.2.busyLeft = 0)) = true := by decide

/-! ### Placing a word of the opcode table -/

/-- The row of READ_PAGE and of F_SET_STATUS run as the first instruction after reset. -/
theorem test_placed_rows_run :
    goesOn (step (State.reset.withFetchWord 32 0x10)) = true ∧
    goesOn (step (State.reset.withFetchWord 24 0x55A01F)) = true := by decide

/-! ### Witnesses: states and operands that meet the hypotheses of the statements -/

/-- A running machine of the invariant, at the last page of READ_PAGE. -/
def running : State := at_ .rdSelect 0x10 [.bytes []]

theorem inv_running : Inv running := by
  refine ⟨by decide, by decide, by decide, by decide, by decide, by decide, by decide, by decide, by decide, ?_, by decide, ?_⟩
  · simp [running, at_, Regs.reset]
  · exact ⟨.inl rfl, ⟨by decide, by decide, by decide⟩⟩

/-- An accepted command of the invariant. -/
def accepted (w : Word) (answers : List Answer) : State := at_ .start w answers

theorem inv_accepted : Inv (accepted 0x10 []) := by
  refine ⟨by decide, by decide, by decide, by decide, by decide, by decide, by decide, by decide, by decide, ?_, by decide, ?_⟩
  · simp [accepted, at_, Regs.reset]
  · exact rfl

theorem accepted_accepted (w : Word) (answers : List Answer) : Accepted w (accepted w answers) :=
  ⟨by show Params.wf { (at_ .start 0 []).params with } = true; decide, rfl, rfl, rfl, rfl, rfl, rfl, rfl, rfl⟩

theorem witness_DecodeOfEncode : pRef.opcodesDistinct = true ∧ Instr.wf pRef (.fPageReadToCache 65535) = true := by decide

theorem witness_EncodeOfDecodedFrame :
    decodeFrame pT [0x13, 0xFF, 0xFF, 0x00, 0x07] = .ok (.fPageReadToCache 65535, [0x07]) := rfl

theorem witness_RowAddress_positions : 1 < pRef.pageAddrBytes ∧ 0 < pRef.rowDummyBytes := by decide

theorem witness_RowAddress_sent : Inv running ∧ phaseFrame running = some (.fPageReadToCache 3) := ⟨inv_running, rfl⟩

theorem witness_StepRuns_start :
    (accepted 0x10 []).params.wf = true ∧ (accepted 0x10 []).inputs = [] ∧ (accepted 0x10 []).seq.phase = .start ∧
    decodeCommand (accepted 0x10 []).seq.word = .ok .readPage := ⟨rfl, rfl, rfl, rfl⟩

theorem witness_StepRuns_frame :
    running.params.wf = true ∧ running.inputs = [] ∧ phaseFrame running = some (.fPageReadToCache 3) := ⟨rfl, rfl, rfl⟩

theorem witness_StepRuns_planned :
    running.params.wf = true ∧ ({ running with inputs := [.nfc] } : State).inputs = [.nfc] := ⟨rfl, rfl⟩

theorem witness_StepRuns_waiting :
    (at_ .pollDelay 0x07 []).params.wf = true ∧ (at_ .pollDelay 0x07 []).inputs = [] ∧
    (at_ .pollDelay 0x07 []).seq.phase = .pollDelay ∧ (at_ .idle 0 []).seq.phase = .idle := ⟨rfl, rfl, rfl, rfl⟩

theorem witness_StepRuns_placed :
    State.reset.params.wf = true ∧ decodeCommand (BitVec.ofNat 32 0x21) = .ok .programRange := ⟨by decide, rfl⟩

theorem witness_StartDecodes (w : Word) : (accepted w []).seq.phase = .start ∧ (accepted w []).seq.word = w := ⟨rfl, rfl⟩

theorem witness_StartDecodes_illegal : (0x08 : Word) ∉ commandWords ∧ (0x121 : Word) ∉ commandWords := by decide

/-- Each clause of IllegalWordChangesNothingElse at the ends of its range. -/
theorem witness_IllegalWord :
    (0x100 : Word).toNat / 256 ≠ 0 ∧ (0xFFFFFFFF : Word).toNat / 256 ≠ 0 ∧ (0 : Word).toNat = 0 ∧
    (0x08 ≤ (0x08 : Word).toNat ∧ (0x0F : Word).toNat ≤ 0x0F) ∧ (0x13 ≤ (0x13 : Word).toNat ∧ (0x1F : Word).toNat ≤ 0x1F) ∧
    (0x22 ≤ (0x22 : Word).toNat ∧ (0xFF : Word).toNat ≤ 0xFF) ∧ (accepted 0x100 []).seq.phase = .start := by decide

theorem witness_Acceptance :
    (let s := { at_ .idle 0 [] with inputs := [.regWrite 0x08 4 0x110] }
     s.params.wf = true ∧ s.regs.busy = false ∧ s.inputs = .regWrite 0x08 4 0x110 :: []) ∧
    (0x110 : Word) ∉ commandWords := by decide

theorem witness_StartOfDeviceCommands :
    Instr.getStatus ∈ [Instr.identify, Instr.getStatus, Instr.setStatus, Instr.writeEnable, Instr.writeDisable] := by decide

/-- The last page and an exact buffer at the top of the address space. -/
theorem witness_StartOfPageCommands :
    (let s := at_ .start 0x10 []
     let r := { s.regs with bufAddr := 0xFFFFFFFC }
     r.startPage.toNat + 1 ≤ pT.pagesTotal ∧ pT.pageSizeBytes ≤ r.bufLen.toNat ∧
       r.bufAddr.toNat + pT.pageSizeBytes ≤ 2 ^ s.params.bufAddrBits) := by decide

/-- Each reason for INVALID_RANGE, one past its bound. -/
theorem witness_StartOfPageCommands_refused :
    pT.pagesTotal < (4 : Word).toNat + 1 ∧ (3 : Word).toNat < pT.pageSizeBytes ∧
    2 ^ 32 < (0xFFFFFFFD : Word).toNat + pT.pageSizeBytes ∧ pT.pagesTotal ≤ (4 : Word).toNat := by decide

theorem witness_StartOfRangeCommands :
    (3 : Word).toNat + (1 : Word).toNat ≤ pT.pagesTotal ∧ (1 : Word).toNat * pT.pageSizeBytes ≤ (4 : Word).toNat ∧
    (0xFFFFFFFC : Word).toNat + (1 : Word).toNat * pT.pageSizeBytes ≤ 2 ^ 32 ∧ (1 : Word) ≠ 0 ∧
    (4 : Word).toNat + (0 : Word).toNat ≤ pT.pagesTotal ∧
    pT.pagesTotal < (0xFFFFFFFF : Word).toNat + (2 : Word).toNat ∧
    (7 : Word).toNat < (2 : Word).toNat * pT.pageSizeBytes ∧
    2 ^ 32 < (0xFFFFFFFD : Word).toNat + (1 : Word).toNat * pT.pageSizeBytes := by decide

/-- A prepared answer of the right length, one too short, and an error, for a frame that asks for six bytes. -/
theorem witness_Transceive :
    ((at_ .rdCache 0x10 [.bytes (zeros 6)]).chan.dev = .oracle (.bytes (zeros 6) :: []) ∧
      (zeros 6).length = respLen pT .fReadFromCache) ∧
    ((at_ .rdCache 0x10 [.bytes (zeros 5)]).chan.dev = .oracle (.bytes (zeros 5) :: []) ∧
      (zeros 5).length ≠ respLen pT .fReadFromCache) ∧
    (at_ .rdCache 0x10 [.channelError]).chan.dev = .oracle (.channelError :: []) := by decide

/-- Both answers in each of the three phases, with the page at hand and the largest page index that fits. -/
theorem witness_AddressPhases :
    3 < 2 ^ (8 * pT.pageAddrBytes) ∧ 65535 < 2 ^ (8 * pT.pageAddrBytes) ∧
    frameAnswer (.fPageReadToCache 3) (at_ .rdSelect 0x10 [.bytes []]) = some [] ∧
    frameAnswer (.fPageReadToCache 3) (at_ .rdSelect 0x10 [.channelError]) = none ∧
    frameAnswer (.fProgramExecute 3) (at_ .wrExec 0x11 [.bytes []]) = some [] ∧
    frameAnswer (.fProgramExecute 3) (at_ .wrExec 0x11 [.channelError]) = none ∧
    frameAnswer (.fBlockErase 3) (at_ .erErase 0x12 [.bytes []]) = some [] ∧
    frameAnswer (.fBlockErase 3) (at_ .erErase 0x12 [.channelError]) = none ∧
    (at_ .wrExec 0x11 []).seq.cur = 3 := by decide

theorem witness_ReadCachePhase :
    (let s := at_ .rdCache 0x10 [.bytes (zeros 6)]
     s.seq.phase = .rdCache ∧ s.race = [] ∧ memWf s.mem = true ∧ s.regs.startPage.toNat ≤ s.seq.cur ∧
     s.regs.bufAddr.toNat + (s.seq.cur - s.regs.startPage.toNat) * s.params.profile.pageSizeBytes
       + s.params.profile.pageSizeBytes ≤ 2 ^ s.params.bufAddrBits ∧
     frameAnswer .fReadFromCache s = some (zeros 6)) ∧
    frameAnswer .fReadFromCache (at_ .rdCache 0x10 [.channelError]) = none := by decide

theorem witness_LoadPhase :
    (let s := at_ .wrLoad 0x11 [.bytes []]
     s.seq.phase = .wrLoad ∧ (loadUnit s).length = s.params.profile.cu ∧ s.regs.startPage.toNat ≤ s.seq.cur ∧
     s.seq.cur < 2 ^ 32 ∧
     s.regs.bufAddr.toNat + (s.seq.cur - s.regs.startPage.toNat) * s.params.profile.pageSizeBytes
       + s.params.profile.pageSizeBytes ≤ 2 ^ s.params.bufAddrBits ∧
     s.race = [] ∧ phaseFrame s = some (.fProgramLoad (loadUnit s)) ∧
     frameAnswer (.fProgramLoad (loadUnit s)) s = some []) ∧
    frameAnswer (.fProgramLoad (zeros 6)) (at_ .wrLoad 0x11 [.channelError]) = none := by decide

/-- A page with its poll (RET_READ) and POLL (no page); the budget spent; each outcome of a read, with the last permitted
attempt among the busy ones. -/
theorem witness_PollReadPhase :
    (let s := at_ .pollRead 0x07 [.bytes [0x01]]
     s.seq.phase = .pollRead ∧ s.seq.ret = .poll ∧ s.regs.pollCount.toNat < s.regs.maxAttempts.toNat ∧
     frameAnswer (.fGetStatus 0xC0) s = some [0x01] ∧ decodeOutcome pT false 0x01 = .busy) ∧
    (4 : Word).toNat ≤ (4 : Word).toNat ∧ (3 : Word).toNat + 1 = (4 : Word).toNat ∧
    frameAnswer (.fGetStatus 0xC0) (at_ .pollRead 0x07 [.channelError]) = none ∧
    decodeOutcome pT false 0x04 = .fail .eraseFailure ∧ decodeOutcome pT false 0x00 = .ready .noError := by decide

theorem witness_SingleReadPhases :
    (at_ .single 0x03 []).seq.phase = .single ∧ (at_ .single 0x03 []).params.wf = true ∧
    frameAnswer (.fGetStatus 0xC0) (at_ .single 0x03 [.bytes [0x12]]) = some [0x12] ∧
    frameAnswer (.fGetStatus 0xC0) (at_ .single 0x03 [.channelError]) = none ∧
    frameAnswer .fReadId (at_ .single 0x02 [.bytes [0xEF, 0xAA, 0x21]]) = some ([0xEF] ++ [0xAA, 0x21]) ∧
    [0xEF#8].length = pT.mfrIdBytes ∧ frameAnswer .fReadId (at_ .single 0x02 [.channelError]) = none := by decide

theorem witness_DeviceControlPhases :
    frameAnswer .fWriteEnable (at_ .wrEnable 0x12 [.bytes []]) = some [] ∧
    frameAnswer .fWriteEnable (at_ .wrEnable 0x12 [.channelError]) = none ∧
    frameAnswer .fReset (at_ .rstSend 0x01 [.bytes []]) = some [] ∧
    frameAnswer .fReset (at_ .rstSend 0x01 [.channelError]) = none ∧
    frameAnswer (.fSetStatus 0xA0 0x55) (at_ .single 0x04 [.bytes []]) = some [] ∧
    frameAnswer (.fSetStatus 0xA0 0x55) (at_ .single 0x04 [.channelError]) = none ∧
    frameAnswer .fWriteDisable (at_ .single 0x06 [.bytes []]) = some [] ∧
    Instr.fWriteDisable ∈ [Instr.fSetStatus 0xA0 0x55, Instr.fWriteEnable, Instr.fWriteDisable] := by decide

theorem witness_FrameOutsideItsPhase :
    (at_ .idle 0 []).seq.phase ≠ .single ∧ (at_ .idle 0 []).seq.phase ≠ .pollRead ∧
    (at_ .rdSelect 0x10 []).seq.phase = .rdSelect ∧ (at_ .wrExec 0x11 []).seq.phase = .wrExec ∧
    (at_ .erErase 0x12 []).seq.phase = .erErase ∧ 2 ^ (8 * pT.pageAddrBytes) ≤ 65536 ∧
    (let s := at_ .wrLoad 0x11 []
     s.seq.phase = .wrLoad ∧ (zeros 7).length ≠ s.params.profile.cu ∧ s.regs.startPage.toNat ≤ s.seq.cur ∧
     s.regs.bufAddr.toNat + (s.seq.cur - s.regs.startPage.toNat) * pT.pageSizeBytes + pT.pageSizeBytes ≤ 2 ^ 32) := by
  decide

/-- Every command answers a next state; one of them ends (R231) and the others go on. -/
theorem witness_FrameOfCommands :
    ([Instr.reset, .identify, .getStatus, .setStatus, .writeEnable, .writeDisable, .poll, .readPage, .programPage,
      .eraseBlock, .readRange, .programRange].all fun i =>
        nextIs (exec i (at_ .start 0x10 [])) fun t => decide (t.seq.phase ≠ .idle)) = true := by decide

/-- Every frame without a response answers a next state in its phase, on an answer and on an error. -/
theorem witness_FrameOfSendingFrames :
    ([(Instr.fPageReadToCache 3, Phase.rdSelect), (.fProgramLoad (zeros 6), .wrLoad), (.fProgramExecute 3, .wrExec),
      (.fBlockErase 3, .erErase), (.fSetStatus 0xA0 0x55, .single), (.fReset, .rstSend), (.fWriteEnable, .wrEnable),
      (.fWriteDisable, .single)].all fun p =>
        goesOn (exec p.1 (at_ p.2 0x11 [.bytes []])) && goesOn (exec p.1 (at_ p.2 0x11 [.channelError]))) = true := by
  decide

/-- Both phases of the status read, RET_PROG's page among them, and the read-ID frame with and without an error. -/
theorem witness_FrameOfShortReads :
    goesOn (exec (.fGetStatus 0xC0) (at_ .pollRead 0x07 [.bytes [0x01]])) = true ∧
    goesOn (exec (.fGetStatus 0xC0) (at_ .single 0x03 [.bytes [0x01]])) = true ∧
    (at_ .pollRead 0x07 []).seq.ret ≠ .prog ∧
    goesOn (exec .fReadId (at_ .single 0x02 [.bytes (zeros 3)])) = true ∧
    nextIs (exec .fReadId (at_ .single 0x02 [.channelError])) (fun t => decide (t.regs.errCode ≠ .none)) = true := by
  decide

theorem witness_FrameOfReadFromCache :
    goesOn (exec .fReadFromCache (at_ .rdCache 0x10 [.bytes (zeros 6)])) = true ∧
    nextIs (exec .fReadFromCache (at_ .rdCache 0x10 [.channelError]))
      (fun t => decide (t.regs.errCode ≠ .none ∧ t.seq.phase = .idle)) = true := by decide

/-- The largest page index, and no page. -/
theorem witness_EndOfACommand :
    (∀ p, some (2 ^ 32 - 1) = some p → p < 2 ^ 32) ∧ (∀ p, (none : Option Nat) = some p → p < 2 ^ 32) :=
  ⟨by intro p h; cases h; decide, by simp⟩

/-- Each branch of page_complete(). -/
theorem witness_PageComplete :
    (0x10 : Word).toNat % 256 = 0x10 ∧ (0x11 : Word).toNat % 256 = 0x11 ∧ (0x20 : Word).toNat % 256 ≠ 0x10 ∧
    (0x20 : Word).toNat % 256 ≠ 0x11 ∧ (0 : Word) + 1 = 1 ∧ (0 : Word) + 1 ≠ 2 ∧ (0x21 : Word).toNat % 256 ≠ 0x20 := by
  decide

theorem witness_ReadyContinues :
    decodeOutcome pT false 0x10 = .ready .corrected ∧ (at_ .pollRead 0x07 []).seq.ret = .poll := by decide

/-- A byte for each clause of DecodeOrder under P_T's masks. -/
theorem witness_DecodeOrder :
    (0x31#8 &&& pT.busyMask ≠ 0) ∧ (0x0C#8 &&& pT.busyMask = 0 ∧ 0x0C#8 &&& pT.efailMask ≠ 0) ∧
    (0x28#8 &&& pT.busyMask = 0 ∧ 0x28#8 &&& pT.efailMask = 0 ∧ 0x28#8 &&& pT.pfailMask ≠ 0) ∧
    (0x30#8 &&& pT.busyMask = 0 ∧ 0x30#8 &&& pT.efailMask = 0 ∧ 0x30#8 &&& pT.pfailMask = 0) ∧
    severity pT 0x30 = .uncorrectable ∧ severity pT 0x10 = .corrected ∧ severity pT 0xC2 = .noError := by decide

/-- A value the map names and, in a profile whose map is shorter, one it does not. -/
theorem witness_DecodeWrites :
    pT.eccMap.lookup (((0x10#8 &&& pT.eccMask) >>> pT.eccShift).toNat) = some .corrected ∧
    ({ pT with eccMap := [(0, .noError)] } : Profile).eccMap.lookup (((0x10#8 &&& pT.eccMask) >>> pT.eccShift).toNat)
      = none := by decide

theorem witness_PackedRegisters_write :
    ({ running with inputs := [.regWrite 0x04 4 0xA] } : State).inputs = .regWrite 0x04 4 0xA :: [] ∧
    ({ running with inputs := [.regWrite 0x04 4 0xA] } : State).params.wf = true := by decide

/-- The first and the last reserved offset, and two values that differ in reserved bits alone. -/
theorem witness_Reserved :
    (0x4C % 4 = 0 ∧ 0x4C ≤ 0x4C ∧ 0x4C ≤ 0xFC) ∧ (0xFC % 4 = 0 ∧ 0x4C ≤ 0xFC ∧ 0xFC ≤ 0xFC) ∧
    (0xFFFFFFFF : Word).extractLsb' 0 2 = (0x3 : Word).extractLsb' 0 2 ∧
    (0xA : Word).getLsbD 1 = (0xFFFFFFFF : Word).getLsbD 1 ∧ (0xA : Word).getLsbD 3 = (0xFFFFFFFF : Word).getLsbD 3 ∧
    (0xFFFF0000 : Word).extractLsb' 0 16 = (0 : Word).extractLsb' 0 16 := by decide

/-- A read while busy, at the first and the last offset. -/
theorem witness_RegisterRead :
    ({ running with inputs := [.regRead 0xFC 4] } : State).inputs = .regRead 0xFC 4 :: [] ∧ running.params.wf = true ∧
    0xFC % 4 = 0 ∧ 0xFC < 256 ∧ 0 % 4 = 0 ∧ running.regs.busy = true := by decide

theorem witness_WrittenRegisters : (at_ .idle 0 []).params.wf = true ∧ (at_ .idle 0 []).regs.busy = false := by decide

theorem witness_BusyWrite :
    ({ running with inputs := [.regWrite 0x24 4 7] } : State).inputs = .regWrite 0x24 4 7 :: [] ∧
    running.params.wf = true ∧ running.regs.busy = true ∧
    0x24 ∈ [0x08, 0x0C, 0x10, 0x14, 0x18, 0x1C, 0x20, 0x24] := by decide

theorem witness_Interrupt :
    (0x2 : Word).getLsbD 1 = true ∧ (0xFFFFFFFE : Word).getLsbD 0 = false ∧ (at_ .idle 0 []).regs.busy = false := by decide

/-- Each kind of stop at the edge of its range. -/
theorem witness_IllegalAccesses :
    running.params.wf = true ∧ (2 ≠ 4 ∨ 0 % 4 ≠ 0) ∧ (4 ≠ 4 ∨ 2 % 4 ≠ 0) ∧ (256 % 4 = 0 ∧ 256 ≤ 256) ∧
    2 ^ running.params.bufAddrBits ≤ 4294967296 ∧
    ({ running with inputs := [.regWrite 2 4 0] } : State).inputs = .regWrite 2 4 0 :: [] ∧
    ({ running with inputs := [.regRead 256 4] } : State).inputs = .regRead 256 4 :: [] ∧
    ({ running with inputs := [.bufWrite 4294967296 0] } : State).inputs = .bufWrite 4294967296 0 :: [] ∧
    ({ running with inputs := [.bufRead 4294967296] } : State).inputs = .bufRead 4294967296 :: [] := by decide

theorem witness_HostBufferAccess :
    (let s := { at_ .idle 0 [] with inputs := [.bufWrite 0xFFFFFFFF 0x55, .bufRead 0xFFFFFFFF] }
     s.params.wf = true ∧ memWf s.mem = true ∧ s.regs.busy = false ∧ 0xFFFFFFFF < 2 ^ s.params.bufAddrBits ∧
     s.inputs = .bufWrite 0xFFFFFFFF 0x55 :: .bufRead 0xFFFFFFFF :: []) := by decide

theorem witness_HostNotation :
    (let s := { at_ .idle 0 [] with inputs := expand (.setStatus 0xA0 0x38) ++ [rd .status] }
     s.params.wf = true ∧ s.regs.busy = false ∧ s.inputs = wr .regArg 0x38A0 :: wr .cmd 0x04 :: .waitDone :: [rd .status]) ∧
    ({ at_ .idle 0 [] with inputs := [.waitDone] } : State).inputs = .waitDone :: [] ∧ (at_ .idle 0 []).regs.done = false ∧
    ({ at_ .idle 0 [] with inputs := [rd .result] } : State).inputs = rd .result :: [] := by decide

theorem witness_NfcReset :
    running.params.wf = true ∧ ({ running with inputs := [.reset] } : State).inputs = .reset :: [] ∧
    ({ running with inputs := [.resetInTransceive] } : State).inputs = .resetInTransceive :: [] := by decide

theorem witness_InvariantIsKept : Inv running ∧ goesOn (step running) = true := ⟨inv_running, by decide⟩

theorem witness_NeverStops :
    Inv running ∧ legalInput running.params (.regWrite 0xFC 4 0) = true ∧
    legalInput running.params (.bufWrite 0xFFFFFFFF 0) = true := ⟨inv_running, by decide, by decide⟩

theorem witness_ParametersNeverChange : goesOn (step running) = true ∧ goesOn (controllerStep running) = true := by decide

theorem witness_BusyExactly : (running.regs.busy = true ↔ running.seq.phase ≠ .idle) ∧ goesOn (step running) = true := by
  decide

theorem witness_TxnCount : goesOn (controllerStep running) = true := by decide

theorem witness_OnlyACompletedReadStores :
    nextIs (controllerStep (at_ .rdCache 0x10 [.bytes [0x30, 0x31, 0x32, 0x33, 0x34, 0x35]]))
      (fun t => decide (memByte t.mem 0x100 ≠ 0xDE)) = true := by decide

/-- A host write twice in the slot of a running READ_PAGE and of a running PROGRAM_PAGE: of a read's slot only the last byte
competes, of a program's slot every earlier one (R350). -/
theorem test_raced_writes :
    rivals (hostBufWrite 0x103 0x66 (hostBufWrite 0x103 0x55 running)).race 0x103 = [0x66] ∧
    rivals (hostBufWrite 0x103 0x66 (hostBufWrite 0x103 0x55 (at_ .wrEnable 0x11 []))).race 0x103 = [0x55, 0xEF] := by
  decide

/-- A raced host read is open while the page may come, saw the old byte if the command ends without it, and has the stored
byte as its other choice. -/
theorem test_raced_read :
    (let s := hostBufRead 0x103 running
     s.readData = none ∧ s.racedReads.map (racedReadSaw s) = [none] ∧
     s.racedReads.map (racedReadSaw (raiseError .timeout none s)) = [some 0xEF] ∧
     (storePage [0x30, 0x31, 0x32, 0x33, 0x34, 0x35] s).racedReads.map RacedRead.new = [some 0x33]) := by decide

/-- The clauses at the ends of the slots: the first and last raced byte of READ_PAGE and of PROGRAM_PAGE, the byte before
and the byte after, a command without slots, no command; then a store over a raced read and over none. -/
theorem witness_RacedBytes :
    (running.regs.busy = true ∧ readsPages running ∧
      running.regs.bufAddr.toNat + running.regs.pagesDone.toNat * pT.pageSizeBytes ≤ 0x100 ∧
      0x103 < running.regs.bufAddr.toNat + pagesWanted running * pT.pageSizeBytes ∧
      0xFF < running.regs.bufAddr.toNat + running.regs.pagesDone.toNat * pT.pageSizeBytes ∧
      running.regs.bufAddr.toNat + pagesWanted running * pT.pageSizeBytes ≤ 0x104) ∧
    (let s := at_ .wrEnable 0x11 []
     s.regs.busy = true ∧ programsPages s ∧ s.regs.bufAddr.toNat ≤ 0x100 ∧
     0x103 < s.regs.bufAddr.toNat + pagesWanted s * pT.pageSizeBytes ∧ 0xFF < s.regs.bufAddr.toNat ∧
     s.regs.bufAddr.toNat + pagesWanted s * pT.pageSizeBytes ≤ 0x104) ∧
    (let s := at_ .erErase 0x12 []
     s.regs.busy = true ∧ ¬ readsPages s ∧ ¬ programsPages s) ∧
    (at_ .idle 0 []).regs.busy = false ∧
    memWf running.mem = true ∧ (zeros 6).length = pT.cu ∧ 3 < pT.pageSizeBytes ∧ (slotData running)[3]? = some 0xEF ∧
    (hostBufRead 0x103 running).racedReads[0]? = some { addr := 0x103, old := 0xEF, new := none, draw := 0 } ∧
    readRaces running 0x103 = true ∧ readRaces (at_ .idle 0 []) 0x103 = false ∧ 0x103 = slotAddr running + 3 ∧ slotAddr running + pT.pageSizeBytes ≤ 0x104 := by
  unfold readsPages programsPages
  decide

/-- An error of a page command and of an illegal word; the other lists are met the same way. -/
theorem witness_ErrorsACommandCanEndWith :
    Inv (accepted 0x10 []) ∧ (accepted 0x10 []).seq.word ∈ [0x10#32, 0x11#32, 0x12#32, 0x20#32, 0x21#32] ∧
    nextIs (controllerStep (at_ .rdSelect 0x10 [.channelError]))
      (fun t => decide (t.seq.phase = .idle ∧ t.regs.errCode ≠ .none)) = true ∧
    nextIs (controllerStep (accepted 0x08 [])) (fun t => decide (t.seq.phase = .idle ∧ t.regs.errCode ≠ .none)) = true :=
  ⟨inv_accepted, by decide, by decide, by decide⟩

/-- The invariant at the failing state of the previous witness. -/
theorem witness_ErrorsACommandCanEndWith_inv : Inv (at_ .rdSelect 0x10 [.channelError]) := by
  refine ⟨by decide, by decide, by decide, by decide, by decide, by decide, by decide, by decide, by decide, ?_, by decide, ?_⟩
  · simp [at_, Regs.reset]
  · exact ⟨.inl rfl, ⟨by decide, by decide, by decide⟩⟩

theorem witness_DelayOnlyBetweenReads :
    (at_ .pollDelay 0x07 []).seq.phase = .pollDelay ∧
    nextIs (controllerStep (at_ .pollRead 0x07 [.bytes [0x01]])) (fun t => decide (t.seq.phase = .pollDelay)) = true := by
  decide

/-- Status bytes that report busy. -/
theorem allBusy_ones (n : Nat) : AllBusy pT (List.replicate n 0x01) := by
  intro b hb
  rw [List.eq_of_mem_replicate hb]
  decide

/-- Three busy reads below a budget of four; four at it; three and then a byte that is not busy. -/
theorem witness_PollIsBounded :
    (let s := at_ .pollRead 0x07 (statusAnswers [0x01, 0x01, 0x01] ++ [])
     s.params.wf = true ∧ s.inputs = [] ∧ s.seq.phase = .pollRead ∧ s.regs.pollCount = 0 ∧
     [0x01#8, 0x01, 0x01].length < s.regs.maxAttempts.toNat ∧
     [0x01#8, 0x01, 0x01, 0x01].length = s.regs.maxAttempts.toNat ∧ 0 < [0x01#8, 0x01, 0x01, 0x01].length) ∧
    AllBusy pT [0x01, 0x01, 0x01] ∧ AllBusy pT [0x01, 0x01, 0x01, 0x01] ∧
    (at_ .pollRead 0x07 (statusAnswers ([0x01, 0x01, 0x01] ++ [0x04]) ++ [])).chan.dev
      = .oracle (statusAnswers ([0x01, 0x01, 0x01] ++ [0x04]) ++ []) ∧ 0x04#8 &&& pT.busyMask = 0 :=
  ⟨by decide, allBusy_ones 3, allBusy_ones 4, rfl, by decide⟩

theorem reportsReady_zero (ph : Phase) (w : Word) (answers : List Answer) : ReportsReady (at_ ph w answers) 0x00 :=
  ⟨.noError, by show decodeOutcome pT false 0x00 = .ready .noError; decide⟩

/-- The three commands, each with three busy reads and then Ready. -/
theorem witness_PollResetAndEraseRuns :
    AllBusy pT [0x01, 0x01, 0x01] ∧ ReportsReady (accepted 0x07 []) 0x00 ∧
    Accepted 0x07 (accepted 0x07 (statusAnswers ([0x01, 0x01, 0x01] ++ [0x00]) ++ [])) ∧
    Accepted 0x01 (accepted 0x01 ([.bytes []] ++ statusAnswers ([0x01, 0x01, 0x01] ++ [0x00]) ++ [])) ∧
    Accepted 0x12 (accepted 0x12 ([.bytes [], .bytes []] ++ statusAnswers ([0x01, 0x01, 0x01] ++ [0x00]) ++ [])) ∧
    (accepted 0x12 []).regs.startPage.toNat < pT.pagesTotal ∧
    [0x01#8, 0x01, 0x01].length < (accepted 0x07 []).regs.maxAttempts.toNat :=
  ⟨allBusy_ones 3, reportsReady_zero _ _ _, accepted_accepted _ _, accepted_accepted _ _, accepted_accepted _ _, by decide,
    by decide⟩

theorem witness_ReadPageDeliversThePage :
    (let answers : List Answer :=
       [.bytes []] ++ statusAnswers ([0x01, 0x01, 0x01] ++ [0x00]) ++ [.bytes [0x30, 0x31, 0x32, 0x33, 0x34, 0x35]] ++ []
     Accepted 0x10 (accepted 0x10 answers) ∧ rangeOk (accepted 0x10 answers) 3 1 = true ∧
     AllBusy pT [0x01, 0x01, 0x01] ∧ ReportsReady (accepted 0x10 answers) 0x00 ∧
     [0x30#8, 0x31, 0x32, 0x33, 0x34, 0x35].length = pT.cu ∧ (accepted 0x10 answers).chan.dev = .oracle answers) :=
  ⟨accepted_accepted _ _, by decide, allBusy_ones 3, reportsReady_zero _ _ _, rfl, rfl⟩

theorem witness_ProgramPageSendsThePage :
    (let answers : List Answer := [.bytes [], .bytes [], .bytes []] ++ statusAnswers ([0x01, 0x01, 0x01] ++ [0x00]) ++ []
     Accepted 0x11 (accepted 0x11 answers) ∧ rangeOk (accepted 0x11 answers) 3 1 = true ∧
     AllBusy pT [0x01, 0x01, 0x01] ∧ ReportsReady (accepted 0x11 answers) 0x00 ∧
     (accepted 0x11 answers).chan.dev = .oracle answers) :=
  ⟨accepted_accepted _ _, by decide, allBusy_ones 3, reportsReady_zero _ _ _, rfl⟩

/-- A range, a page and an erase that fail the check: page 4 of 4. -/
theorem witness_RangeFailure :
    (let f (w : Word) : State := { accepted w [] with regs := { (accepted w []).regs with startPage := 4 } }
     (Accepted 0x10 (f 0x10) ∧ rangeOk (f 0x10) 4 1 = false) ∧ (Accepted 0x21 (f 0x21) ∧ rangeOk (f 0x21) 4 1 = false) ∧
     (Accepted 0x12 (f 0x12) ∧ pT.pagesTotal ≤ (f 0x12).regs.startPage.toNat)) :=
  ⟨⟨⟨rfl, rfl, rfl, rfl, rfl, rfl, rfl, rfl, rfl⟩, by decide⟩, ⟨⟨rfl, rfl, rfl, rfl, rfl, rfl, rfl, rfl, rfl⟩, by decide⟩,
    ⟨⟨rfl, rfl, rfl, rfl, rfl, rfl, rfl, rfl, rfl⟩, by decide⟩⟩

/-- One page, the last of the device. -/
theorem witness_ReadRangeFillsTheBuffer :
    (let pages : List (List Byte) := [[0x30, 0x31, 0x32, 0x33, 0x34, 0x35]]
     let answers : List Answer := pages.flatMap (fun r => [.bytes [], .bytes [0x00], .bytes r]) ++ []
     Accepted 0x20 (accepted 0x20 answers) ∧ pages.length = (accepted 0x20 answers).regs.pageCount.toNat ∧
     rangeOk (accepted 0x20 answers) 3 pages.length = true ∧ ReportsReady (accepted 0x20 answers) 0x00 ∧
     (accepted 0x20 answers).regs.maxAttempts ≠ 0 ∧ (∀ r ∈ pages, r.length = pT.cu) ∧
     (accepted 0x20 answers).chan.dev = .oracle answers) :=
  ⟨accepted_accepted _ _, by decide, by decide, reportsReady_zero _ _ _, by decide, by decide, rfl⟩

/-- The two pages of a range from page 2: the error at the first page, and at the second. -/
def rangeOfTwo (answers : List Answer) : State :=
  { accepted 0x20 answers with
    regs := { (accepted 0x20 answers).regs with startPage := 2, pageCount := 2, bufLen := 8 } }

theorem rangeOfTwo_accepted (answers : List Answer) : Accepted 0x20 (rangeOfTwo answers) :=
  ⟨(accepted_accepted 0x20 []).params_wf, rfl, rfl, (accepted_accepted 0x20 []).mem_wf, rfl, rfl, rfl, rfl, rfl⟩

theorem witness_ReadRangeStopsAtAChannelErrorOfASelect :
    ∀ pages ∈ [[], [[0x20#8, 0x21, 0x22, 0x23, 0x24, 0x25]]],
    (let answers : List Answer :=
       pages.flatMap (fun r => [.bytes [], .bytes [0x00], .bytes r]) ++ [.channelError] ++ []
     Accepted 0x20 (rangeOfTwo answers) ∧ pages.length < (rangeOfTwo answers).regs.pageCount.toNat ∧
     rangeOk (rangeOfTwo answers) 2 (rangeOfTwo answers).regs.pageCount.toNat = true ∧
     ReportsReady (rangeOfTwo answers) 0x00 ∧ (rangeOfTwo answers).regs.maxAttempts ≠ 0 ∧
     (∀ r ∈ pages, r.length = pT.cu) ∧ (rangeOfTwo answers).chan.dev = .oracle answers) := by
  intro pages h
  have hp : pages.length < 2 ∧ ∀ r ∈ pages, r.length = pT.cu := by
    revert pages
    decide
  exact ⟨rangeOfTwo_accepted _, hp.1, by show rangeOk (rangeOfTwo []) 2 2 = true; decide, ⟨.noError, by show decodeOutcome pT false 0x00 = .ready .noError; decide⟩,
    by show (4 : Word) ≠ 0; decide, hp.2, rfl⟩

theorem witness_ProgramRangeSendsThePages :
    (let answers : List Answer :=
       (List.range 1).flatMap (fun _ => [.bytes [], .bytes [], .bytes [], .bytes [0x00]]) ++ []
     Accepted 0x21 (accepted 0x21 answers) ∧ (accepted 0x21 answers).regs.pageCount.toNat = 1 ∧
     rangeOk (accepted 0x21 answers) 3 1 = true ∧ ReportsReady (accepted 0x21 answers) 0x00 ∧
     (accepted 0x21 answers).regs.maxAttempts ≠ 0 ∧ (accepted 0x21 answers).chan.dev = .oracle answers) :=
  ⟨accepted_accepted _ _, rfl, by decide, reportsReady_zero _ _ _, by decide, rfl⟩

theorem witness_EveryCommandEnds :
    Inv (accepted 0x10 []) ∧ (accepted 0x10 []).inputs = [] ∧ (accepted 0x10 []).seq.phase = .start :=
  ⟨inv_accepted, rfl, rfl⟩

/-- The reference device at rest. -/
def quietDevice : RefDevice where
  arr := []
  cache := zeros 6
  wel := false
  efail := false
  pfail := false
  ecc := 0
  busyLeft := 0
  feat := []
  id := [0xEF, 0xAA, 0x21]
  busyScript := []
  eccOf := []
  pfailPages := []
  efailPages := []
  chanErr := []
  txns := 0
  ppb := 2

/-- PROGRAM_PAGE over the quiet device, then READ_PAGE to 0x200. -/
theorem witness_ProgramThenReadRoundTrip :
    (let s : State := { accepted 0x11 [] with
       chan := { sent := [], dev := .reference quietDevice }
       inputs := List.replicate 5 .nfc ++ [wr .bufAddr 0x200, wr .cmd 0x10] }
     s.params.wf = true ∧ s.params.profile.opcodesDistinct = true ∧ s.seq.phase = .start ∧ s.seq.word = 0x11 ∧
     s.regs.busy = true ∧ s.race = [] ∧ memWf s.mem = true ∧ s.regs.pagesDone = 0 ∧ s.regs.pollCount = 0 ∧
     s.regs.maxAttempts ≠ 0 ∧ rangeOk s s.regs.startPage.toNat 1 = true ∧
     (0x200 : Word).toNat + s.params.profile.pageSizeBytes ≤ 2 ^ s.params.bufAddrBits ∧
     s.chan.dev = .reference quietDevice ∧ quietDevice.busyLeft = 0 ∧ quietDevice.busyScript = [] ∧
     quietDevice.chanErr = [] ∧ quietDevice.eccOf = [] ∧ quietDevice.pfailPages = [] ∧ quietDevice.efail = false ∧
     s.inputs = List.replicate 5 .nfc ++ [wr .bufAddr 0x200, wr .cmd 0x10]) := by decide

end Sys2Proof.Machine.Test
end

section
/-! SUPPORT. What each frame, each host move and each step does where it goes on, said once for all later proofs; then
what no step changes, and what no controller step changes (R6, R20, R46, R87). -/

namespace Sys2Proof.Machine

variable {s t u : State}

/-! ### What a frame does where it goes on -/

theorem frameNext_cases {i : Instr} (h : frameNext i s t = .next u) : i.wf s.params.profile = true ∧ u = t := by
  refine ⟨?_, frameNext_next h⟩
  unfold frameNext at h
  split at h
  · assumption
  · cases h

theorem execFPageReadToCache_next {p : Nat} (h : execFPageReadToCache p s = .next t) :
    s.seq.phase = .rdSelect ∧ rowFits s.params.profile p = true ∧
      t = sendFrame (.fPageReadToCache p) (some s.seq.cur) (fun _ u => beginPoll .read u) s := by
  unfold execFPageReadToCache at h
  split at h
  · exact ⟨‹_›, frameNext_cases h⟩
  · cases h

theorem execFReadFromCache_next (h : execFReadFromCache s = .next t) :
    s.seq.phase = .rdCache ∧ slotFits s = true ∧
      t = sendFrame .fReadFromCache (some s.seq.cur) (fun r u => pageComplete (storePage r u)) s := by
  unfold execFReadFromCache at h
  split at h
  · split at h
    · exact ⟨‹_›, ‹_›, (Host.Outcome.next.inj h).symm⟩
    · cases h
  · cases h

theorem execFProgramLoad_next {d : List Byte} (h : execFProgramLoad d s = .next t) :
    s.seq.phase = .wrLoad ∧ slotFits s = true ∧ d.length = s.params.profile.cu ∧
      t = sendFrame (.fProgramLoad d) (some s.seq.cur) (fun _ u => setPhase .wrExec u)
        (countDraw (setScratch d s)) := by
  unfold execFProgramLoad at h
  split at h
  · split at h
    · obtain ⟨hwf, ht⟩ := frameNext_cases h
      exact ⟨‹_›, ‹_›, of_decide_eq_true hwf, ht⟩
    · cases h
  · cases h

theorem execFProgramExecute_next {p : Nat} (h : execFProgramExecute p s = .next t) :
    s.seq.phase = .wrExec ∧ rowFits s.params.profile p = true ∧
      t = sendFrame (.fProgramExecute p) (some s.seq.cur) (fun _ u => beginPoll .prog u) s := by
  unfold execFProgramExecute at h
  split at h
  · exact ⟨‹_›, frameNext_cases h⟩
  · cases h

theorem execFBlockErase_next {p : Nat} (h : execFBlockErase p s = .next t) :
    s.seq.phase = .erErase ∧ rowFits s.params.profile p = true ∧
      t = sendFrame (.fBlockErase p) (some s.seq.cur) (fun _ u => beginPoll .erase u) s := by
  unfold execFBlockErase at h
  split at h
  · exact ⟨‹_›, frameNext_cases h⟩
  · cases h

theorem execFGetStatus_next {a : Byte} (h : execFGetStatus a s = .next t) :
    (s.seq.phase = .pollRead ∧ t = pollAttempt (.fGetStatus a) s) ∨
    (s.seq.phase = .single ∧
      t = sendFrame (.fGetStatus a) none (fun r u => finishOk (setStatusRaw (r.headD 0) u)) s) := by
  unfold execFGetStatus at h
  split at h
  · exact .inl ⟨‹_›, (Host.Outcome.next.inj h).symm⟩
  · exact .inr ⟨‹_›, (Host.Outcome.next.inj h).symm⟩
  · cases h

theorem execFSetStatus_next {a v : Byte} (h : execFSetStatus a v s = .next t) :
    s.seq.phase = .single ∧ t = sendFrame (.fSetStatus a v) none (fun _ u => finishOk u) s := by
  unfold execFSetStatus at h
  split at h
  · exact ⟨‹_›, (Host.Outcome.next.inj h).symm⟩
  · cases h

theorem execFReset_next (h : execFReset s = .next t) :
    s.seq.phase = .rstSend ∧ t = sendFrame .fReset none (fun _ u => beginPoll .reset u) s := by
  unfold execFReset at h
  split at h
  · exact ⟨‹_›, (Host.Outcome.next.inj h).symm⟩
  · cases h

theorem execFWriteEnable_next (h : execFWriteEnable s = .next t) :
    (s.seq.phase = .wrEnable ∧ t = sendFrame .fWriteEnable (some s.seq.cur)
      (fun _ u => setPhase (if cmdCode u.seq.word = 0x12 then .erErase else .wrLoad) u) s) ∨
    (s.seq.phase = .single ∧ t = sendFrame .fWriteEnable none (fun _ u => finishOk u) s) := by
  unfold execFWriteEnable at h
  split at h
  · exact .inl ⟨‹_›, (Host.Outcome.next.inj h).symm⟩
  · exact .inr ⟨‹_›, (Host.Outcome.next.inj h).symm⟩
  · cases h

theorem execFWriteDisable_next (h : execFWriteDisable s = .next t) :
    s.seq.phase = .single ∧ t = sendFrame .fWriteDisable none (fun _ u => finishOk u) s := by
  unfold execFWriteDisable at h
  split at h
  · exact ⟨‹_›, (Host.Outcome.next.inj h).symm⟩
  · cases h

theorem execFReadId_next (h : execFReadId s = .next t) :
    s.seq.phase = .single ∧ t = sendFrame .fReadId none (fun r u => finishOk (setIds r u)) s := by
  unfold execFReadId at h
  split at h
  · exact ⟨‹_›, (Host.Outcome.next.inj h).symm⟩
  · cases h

/-- R111's table, read backwards: a word that decodes is the command's CODE with RSVD 0. -/
theorem decodeCommand_ok {w : Word} {i : Instr} (h : decodeCommand w = .ok i) :
    ∃ c, commandCode i = some c ∧ w = BitVec.ofNat 32 c := by
  unfold decodeCommand at h
  split at h
  case isFalse => cases h
  case isTrue hrsvd =>
    have hword : w = BitVec.ofNat 32 (cmdCode w) := by
      rw [cmdCode, Nat.mod_eq_of_lt (by omega), BitVec.ofNat_toNat, BitVec.setWidth_eq]
    split at h <;> cases h
    all_goals
      rename_i hc
      exact ⟨_, rfl, hword.trans (congrArg (BitVec.ofNat 32) hc)⟩

/-! ### What a host move does where it goes on -/

theorem regAccess_next {off width : Nat} (h : regAccess off width t = .next u) : u = t := by
  unfold regAccess at h
  split at h
  · split at h
    · exact (Host.Outcome.next.inj h).symm
    · cases h
  · cases h

theorem bufAccess_next {a : Nat} (h : bufAccess a s t = .next u) : a < s.params.bufSize ∧ u = t := by
  unfold bufAccess at h
  split at h
  · exact ⟨‹_›, (Host.Outcome.next.inj h).symm⟩
  · cases h

/-- A write to a parameter register takes effect while idle and only sets OVR while busy (R46). -/
theorem writeParam_cases (s : State) (r : Regs) :
    (s.regs.busy = true ∧ writeParam s r = setOvr s) ∨ (s.regs.busy = false ∧ writeParam s r = { s with regs := r }) := by
  unfold writeParam
  cases s.regs.busy <;> simp

/-- A write to CMD is accepted while idle and only sets OVR while busy (R45, R46). -/
theorem writeCmd_cases (v : Word) (s : State) :
    (s.regs.busy = true ∧ writeCmd v s = setOvr s) ∨ (s.regs.busy = false ∧ writeCmd v s = acceptCommand v s) := by
  unfold writeCmd
  cases s.regs.busy <;> simp

theorem resetInTransceive_cases (s : State) :
    resetInTransceive s = nfcReset s ∨ ∃ i, resetInTransceive s = nfcReset (cutFrame i s) := by
  unfold resetInTransceive
  split
  · exact .inr ⟨_, rfl⟩
  · exact .inl rfl

/-- Where the machine goes on its parameters are well-formed, and the step is the controller's or the next planned move's. -/
theorem step_next (h : step s = .next t) : s.params.wf = true ∧
    ((s.inputs = [] ∧ controllerStep s = .next t) ∨
     ∃ e rest, s.inputs = e :: rest ∧ inputStep e { s with inputs := rest } = .next t) := by
  unfold step machineStep at h
  split at h
  · refine ⟨‹_›, ?_⟩
    split at h
    · exact .inl ⟨‹_›, h⟩
    · exact .inr ⟨_, _, ‹_›, h⟩
  · cases h

/-! ### The host's side is kept by the controller (R20, R46, R87) -/

theorem HostSideKept.refl (s : State) : HostSideKept s s := by constructor <;> rfl

theorem HostSideKept.trans (h : HostSideKept s t) (k : HostSideKept t u) : HostSideKept s u where
  params := k.params.trans h.params
  inputs := k.inputs.trans h.inputs
  readData := k.readData.trans h.readData
  race := k.race.trans h.race
  word := k.word.trans h.word
  irqEn := k.irqEn.trans h.irqEn
  eccCorrFatal := k.eccCorrFatal.trans h.eccCorrFatal
  ovr := k.ovr.trans h.ovr
  startPage := k.startPage.trans h.startPage
  pageCount := k.pageCount.trans h.pageCount
  bufAddr := k.bufAddr.trans h.bufAddr
  bufLen := k.bufLen.trans h.bufLen
  maxAttempts := k.maxAttempts.trans h.maxAttempts
  pollDelay := k.pollDelay.trans h.pollDelay
  regAddr := k.regAddr.trans h.regAddr
  regValue := k.regValue.trans h.regValue

theorem hostSideKept_setPhase (ph : Phase) (s : State) : HostSideKept s (setPhase ph s) := by constructor <;> rfl

theorem hostSideKept_setCur (n : Nat) (s : State) : HostSideKept s (setCur n s) := by constructor <;> rfl

theorem hostSideKept_setScratch (bs : List Byte) (s : State) : HostSideKept s (setScratch bs s) := by
  constructor <;> rfl

theorem hostSideKept_setStatusRaw (b : Byte) (s : State) : HostSideKept s (setStatusRaw b s) := by constructor <;> rfl

theorem hostSideKept_countAttempt (s : State) : HostSideKept s (countAttempt s) := by constructor <;> rfl

theorem hostSideKept_countDraw (s : State) : HostSideKept s (countDraw s) := by constructor <;> rfl

theorem hostSideKept_setIds (r : List Byte) (s : State) : HostSideKept s (setIds r s) := by constructor <;> rfl

theorem hostSideKept_raiseError (e : ErrCode) (page : Option Nat) (s : State) :
    HostSideKept s (raiseError e page s) := by constructor <;> rfl

theorem hostSideKept_finishOk (s : State) : HostSideKept s (finishOk s) := by constructor <;> rfl

theorem hostSideKept_beginPoll (r : Ret) (s : State) : HostSideKept s (beginPoll r s) := by constructor <;> rfl

theorem hostSideKept_afterFrame (i : Instr) (s : State) : HostSideKept s (afterFrame i s) := by constructor <;> rfl

theorem hostSideKept_storePage (r : List Byte) (s : State) : HostSideKept s (storePage r s) := by constructor <;> rfl

theorem hostSideKept_countPage (s : State) : HostSideKept s (countPage s) := by constructor <;> rfl

theorem hostSideKept_decodeStatus (b : Byte) (s : State) : HostSideKept s (decodeStatus b s) := by
  constructor <;> simp

/-- A frame keeps the host's side where the continuation does. -/
theorem hostSideKept_sendFrame (i : Instr) (page : Option Nat) {k : List Byte → State → State} (s : State)
    (hk : ∀ r u, HostSideKept u (k r u)) : HostSideKept s (sendFrame i page k s) := by
  have hafter := hostSideKept_afterFrame i s
  rcases sendFrame_cases i page k s with ⟨-, h⟩ | ⟨r, -, -, h⟩ <;> rw [h]
  · exact hafter.trans (hostSideKept_raiseError _ _ _)
  · exact hafter.trans (hk r _)

theorem hostSideKept_startPages (count : Nat) (first : Phase) (s : State) :
    HostSideKept s (startPages count first s) := by
  have hcur := hostSideKept_setCur s.regs.startPage.toNat s
  rcases startPages_cases count first s with ⟨-, h⟩ | ⟨-, -, h⟩ | ⟨-, -, h⟩ <;> rw [h]
  · exact hostSideKept_raiseError _ _ _
  · exact hcur.trans (hostSideKept_finishOk _)
  · exact hcur.trans (hostSideKept_setPhase _ _)

theorem hostSideKept_pageComplete (s : State) : HostSideKept s (pageComplete s) := by
  have hcount := hostSideKept_countPage s
  rcases pageComplete_cases s with h | ⟨-, -, -, ⟨-, h⟩ | ⟨-, h⟩⟩ <;> rw [h]
  · exact hcount.trans (hostSideKept_finishOk _)
  · exact hcount.trans (hostSideKept_setPhase _ _)
  · exact hcount.trans (hostSideKept_setPhase _ _)

theorem hostSideKept_continuePoll (s : State) : HostSideKept s (continuePoll s) := by
  unfold continuePoll
  split
  · exact hostSideKept_finishOk s
  · exact hostSideKept_finishOk s
  · exact hostSideKept_setPhase _ s
  · exact hostSideKept_pageComplete s
  · exact hostSideKept_finishOk s

theorem hostSideKept_pollReceive (b : Byte) (s : State) : HostSideKept s (pollReceive b s) := by
  have hdec := hostSideKept_decodeStatus b s
  rcases pollReceive_cases b s with ⟨-, -, h⟩ | ⟨-, -, h⟩ | ⟨e, -, h⟩ | ⟨v, -, h⟩ <;> rw [h]
  · exact hdec.trans (hostSideKept_setPhase _ _)
  · exact hdec.trans (hostSideKept_raiseError _ _ _)
  · exact hdec.trans (hostSideKept_raiseError _ _ _)
  · exact hdec.trans (hostSideKept_continuePoll _)

theorem hostSideKept_pollAttempt (i : Instr) (s : State) : HostSideKept s (pollAttempt i s) := by
  unfold pollAttempt
  split
  · exact hostSideKept_raiseError _ _ s
  · exact (hostSideKept_countAttempt s).trans (hostSideKept_sendFrame i _ _ fun _ _ => hostSideKept_pollReceive _ _)

theorem execEraseBlock_cases (s : State) :
    (s.regs.startPage.toNat < s.params.profile.pagesTotal ∧
      execEraseBlock s = .next (setPhase .wrEnable (setCur s.regs.startPage.toNat s))) ∨
    execEraseBlock s = .next (raiseError .invalidRange none s) := by
  unfold execEraseBlock
  split
  · exact .inl ⟨‹_›, rfl⟩
  · exact .inr rfl

/-- Every instruction keeps the host's side: a command's START step by its shared operations, a frame by what goes on
after its answer. -/
theorem hostSideKept_exec {i : Instr} (h : exec i s = .next t) : HostSideKept s t := by
  cases i with
  | reset => cases h; exact hostSideKept_setPhase _ s
  | identify => cases h; exact hostSideKept_setPhase _ s
  | getStatus => cases h; exact hostSideKept_setPhase _ s
  | setStatus => cases h; exact hostSideKept_setPhase _ s
  | writeEnable => cases h; exact hostSideKept_setPhase _ s
  | writeDisable => cases h; exact hostSideKept_setPhase _ s
  | poll => cases h; exact hostSideKept_beginPoll _ s
  | readPage => cases h; exact hostSideKept_startPages _ _ s
  | programPage => cases h; exact hostSideKept_startPages _ _ s
  | readRange => cases h; exact hostSideKept_startPages _ _ s
  | programRange => cases h; exact hostSideKept_startPages _ _ s
  | eraseBlock =>
    rcases execEraseBlock_cases s with ⟨-, he⟩ | he <;> cases he.symm.trans h
    · exact (hostSideKept_setCur _ s).trans (hostSideKept_setPhase _ _)
    · exact hostSideKept_raiseError _ _ s
  | fPageReadToCache p =>
    obtain ⟨-, -, rfl⟩ := execFPageReadToCache_next h
    exact hostSideKept_sendFrame _ _ s fun _ u => hostSideKept_beginPoll _ u
  | fReadFromCache =>
    obtain ⟨-, -, rfl⟩ := execFReadFromCache_next h
    exact hostSideKept_sendFrame _ _ s fun r u => (hostSideKept_storePage r u).trans (hostSideKept_pageComplete _)
  | fProgramLoad d =>
    obtain ⟨-, -, -, rfl⟩ := execFProgramLoad_next h
    exact ((hostSideKept_setScratch d s).trans (hostSideKept_countDraw _)).trans
      (hostSideKept_sendFrame _ _ _ fun _ u => hostSideKept_setPhase _ u)
  | fProgramExecute p =>
    obtain ⟨-, -, rfl⟩ := execFProgramExecute_next h
    exact hostSideKept_sendFrame _ _ s fun _ u => hostSideKept_beginPoll _ u
  | fBlockErase p =>
    obtain ⟨-, -, rfl⟩ := execFBlockErase_next h
    exact hostSideKept_sendFrame _ _ s fun _ u => hostSideKept_beginPoll _ u
  | fGetStatus a =>
    obtain ⟨-, rfl⟩ | ⟨-, rfl⟩ := execFGetStatus_next h
    · exact hostSideKept_pollAttempt _ s
    · exact hostSideKept_sendFrame _ _ s fun _ u => (hostSideKept_setStatusRaw _ u).trans (hostSideKept_finishOk _)
  | fSetStatus a v =>
    obtain ⟨-, rfl⟩ := execFSetStatus_next h
    exact hostSideKept_sendFrame _ _ s fun _ u => hostSideKept_finishOk u
  | fReset =>
    obtain ⟨-, rfl⟩ := execFReset_next h
    exact hostSideKept_sendFrame _ _ s fun _ u => hostSideKept_beginPoll _ u
  | fWriteEnable =>
    obtain ⟨-, rfl⟩ | ⟨-, rfl⟩ := execFWriteEnable_next h
    · exact hostSideKept_sendFrame _ _ s fun _ u => hostSideKept_setPhase _ u
    · exact hostSideKept_sendFrame _ _ s fun _ u => hostSideKept_finishOk u
  | fWriteDisable =>
    obtain ⟨-, rfl⟩ := execFWriteDisable_next h
    exact hostSideKept_sendFrame _ _ s fun _ u => hostSideKept_finishOk u
  | fReadId =>
    obtain ⟨-, rfl⟩ := execFReadId_next h
    exact hostSideKept_sendFrame _ _ s fun r u => (hostSideKept_setIds r u).trans (hostSideKept_finishOk _)

/-- A controller step waits, decodes to a command's START step, refuses the word, ends a delay, or sends the phase's frame
(R47). -/
theorem controllerStep_next (h : controllerStep s = .next t) :
    (s.seq.phase = .idle ∧ t = s) ∨
    (s.seq.phase = .start ∧ ∃ i, decodeCommand s.seq.word = .ok i ∧ exec i s = .next t) ∨
    (s.seq.phase = .start ∧ t = raiseError .illegalCommand none s) ∨
    (s.seq.phase = .pollDelay ∧ t = setPhase .pollRead s) ∨
    (∃ i, phaseFrame s = some i ∧ exec i s = .next t) := by
  have hframe (hf : frameStep s = .next t) : ∃ i, phaseFrame s = some i ∧ exec i s = .next t := by
    unfold frameStep at hf
    split at hf
    · exact ⟨_, ‹_›, hf⟩
    · cases hf
  have hstart (hs : startStep s = .next t) : (∃ i, decodeCommand s.seq.word = .ok i ∧ exec i s = .next t) ∨
      t = raiseError .illegalCommand none s := by
    unfold startStep at hs
    split at hs
    · exact .inl ⟨_, ‹_›, hs⟩
    · exact .inr (Host.Outcome.next.inj hs).symm
  unfold controllerStep at h
  split at h
  case h_1 hp => exact .inl ⟨hp, (Host.Outcome.next.inj h).symm⟩
  case h_2 hp =>
    rcases hstart h with hi | ht
    · exact .inr (.inl ⟨hp, hi⟩)
    · exact .inr (.inr (.inl ⟨hp, ht⟩))
  case h_3 hp => exact .inr (.inr (.inr (.inl ⟨hp, (Host.Outcome.next.inj h).symm⟩)))
  all_goals exact .inr (.inr (.inr (.inr (hframe h))))

theorem hostSideKept_controllerStep (h : controllerStep s = .next t) : HostSideKept s t := by
  rcases controllerStep_next h with ⟨-, rfl⟩ | ⟨-, i, -, hi⟩ | ⟨-, rfl⟩ | ⟨-, rfl⟩ | ⟨i, -, hi⟩
  · exact HostSideKept.refl _
  · exact hostSideKept_exec hi
  · exact hostSideKept_raiseError _ _ s
  · exact hostSideKept_setPhase _ s
  · exact hostSideKept_exec hi

/-! ### No move changes the parameters -/

@[simp] theorem writeParam_params (s : State) (r : Regs) : (writeParam s r).params = s.params := by
  rcases writeParam_cases s r with ⟨-, h⟩ | ⟨-, h⟩
  · rw [h, setOvr_params]
  · rw [h]

@[simp] theorem writeCmd_params (v : Word) (s : State) : (writeCmd v s).params = s.params := by
  rcases writeCmd_cases v s with ⟨-, h⟩ | ⟨-, h⟩
  · rw [h, setOvr_params]
  · rw [h, acceptCommand_params]

@[simp] theorem writeReg_params (r : Reg) (v : Word) (s : State) : (writeReg r v s).params = s.params := by
  cases r <;> simp [writeReg]

@[simp] theorem writeOffset_params (off : Nat) (v : Word) (s : State) : (writeOffset off v s).params = s.params := by
  unfold writeOffset
  split
  · exact writeReg_params _ v s
  · rfl

@[simp] theorem resetInTransceive_params (s : State) : (resetInTransceive s).params = s.params := by
  rcases resetInTransceive_cases s with h | ⟨i, h⟩
  · rw [h, nfcReset_params]
  · rw [h, nfcReset_params, cutFrame_params]

theorem inputStep_params {e : Input} (h : inputStep e s = .next t) : t.params = s.params := by
  cases e with
  | nfc => exact (hostSideKept_controllerStep h).params
  | regWrite off width v => rw [regAccess_next h, writeOffset_params]
  | regRead off width => rw [regAccess_next h]
  | bufWrite a b => rw [(bufAccess_next h).2, hostBufWrite_params]
  | bufRead a => rw [(bufAccess_next h).2, hostBufRead_params]
  | waitDone => cases h; rfl
  | reset => cases h; rfl
  | resetInTransceive => cases h; exact resetInTransceive_params s

theorem step_params (h : step s = .next t) : t.params = s.params := by
  obtain ⟨-, ⟨-, hc⟩ | ⟨e, rest, -, he⟩⟩ := step_next h
  · exact (hostSideKept_controllerStep hc).params
  · exact inputStep_params (s := { s with inputs := rest }) he

/-- Settles O44: the shared operations keep the host's side one by one, so every instruction and every controller step
does; host moves touch registers, memory and plans only. -/
theorem parametersNeverChange : Obligations.ParametersNeverChange :=
  ⟨fun _ _ h => step_params h, fun _ _ h => hostSideKept_controllerStep h⟩

end Sys2Proof.Machine
end

section
/-! SUPPORT. The invariant of the machine (R21, R25, R29, R35, R40, R47, R48, R72, R241): at reset, and along every step.
A controller step works on a `Running` state, which is the invariant but for the phase, and ends it or leads it to a phase
whose conditions hold. -/

namespace Sys2Proof.Machine

variable {s t u : State}

/-! ### What the page conditions of the invariant read -/

/-- All that `OnPage` and `Erasing` read is unchanged. -/
structure PageKept (s t : State) : Prop where
  params : t.params = s.params
  word : t.seq.word = s.seq.word
  cur : t.seq.cur = s.seq.cur
  startPage : t.regs.startPage = s.regs.startPage
  pageCount : t.regs.pageCount = s.regs.pageCount
  bufAddr : t.regs.bufAddr = s.regs.bufAddr
  bufLen : t.regs.bufLen = s.regs.bufLen
  pagesDone : t.regs.pagesDone = s.regs.pagesDone

/-- All that `PhaseOk` reads is unchanged. -/
structure PhaseKept (s t : State) : Prop extends PageKept s t where
  phase : t.seq.phase = s.seq.phase
  ret : t.seq.ret = s.seq.ret
  pollCount : t.regs.pollCount = s.regs.pollCount
  maxAttempts : t.regs.maxAttempts = s.regs.maxAttempts

theorem pagesWanted_of_kept (k : PageKept s t) : pagesWanted t = pagesWanted s := by
  unfold pagesWanted
  rw [k.word, k.pageCount]

theorem OnPage.of_kept (h : OnPage s) (k : PageKept s t) : OnPage t where
  in_range := by
    rw [rangeOk, pagesWanted_of_kept k, k.params, k.startPage, k.bufAddr, k.bufLen]
    exact h.in_range
  cur_eq := by rw [k.cur, k.startPage, k.pagesDone, h.cur_eq]
  more := by rw [pagesWanted_of_kept k, k.pagesDone]; exact h.more

theorem Erasing.of_kept (h : Erasing s) (k : PageKept s t) : Erasing t where
  word_eq := k.word.trans h.word_eq
  cur_eq := by rw [k.cur, k.startPage, h.cur_eq]
  in_range := by rw [k.cur, k.params]; exact h.in_range

theorem readsPages_of_kept (h : readsPages s) (k : PageKept s t) : readsPages t := by
  unfold readsPages at *; rwa [k.word]

theorem programsPages_of_kept (h : programsPages s) (k : PageKept s t) : programsPages t := by
  unfold programsPages at *; rwa [k.word]

theorem retOk_of_kept (h : RetOk s) (k : PageKept s t) (hret : t.seq.ret = s.seq.ret) : RetOk t := by
  unfold RetOk at *
  rw [hret]
  split at h
  · exact k.word.trans h
  · exact k.word.trans h
  · exact ⟨readsPages_of_kept h.1 k, h.2.of_kept k⟩
  · exact ⟨programsPages_of_kept h.1 k, h.2.of_kept k⟩
  · exact h.of_kept k

theorem phaseOk_of_kept (h : PhaseOk s) (k : PhaseKept s t) : PhaseOk t := by
  have p := k.toPageKept
  unfold PhaseOk at *
  rw [k.phase, k.pollCount, k.maxAttempts, k.pagesDone, k.word]
  split at h
  · trivial
  · exact h
  · exact ⟨retOk_of_kept h.1 p k.ret, h.2⟩
  · exact ⟨retOk_of_kept h.1 p k.ret, h.2⟩
  · exact ⟨readsPages_of_kept h.1 p, h.2.of_kept p⟩
  · exact ⟨readsPages_of_kept h.1 p, h.2.of_kept p⟩
  · exact h.imp (fun h => ⟨programsPages_of_kept h.1 p, h.2.of_kept p⟩) (·.of_kept p)
  · exact ⟨programsPages_of_kept h.1 p, h.2.of_kept p⟩
  · exact ⟨programsPages_of_kept h.1 p, h.2.of_kept p⟩
  · exact h.of_kept p
  · exact h
  · exact h

theorem phaseOk_of_idle (h : s.seq.phase = .idle) : PhaseOk s := by simp [PhaseOk, h]

/-- The page that the command is at is a page of the device (R230, R241). -/
theorem OnPage.cur_lt (h : OnPage s) : s.seq.cur < s.params.profile.pagesTotal := by
  have hr := ((rangeOk_iff _ _ _).mp h.in_range).1
  have := h.cur_eq
  have := h.more
  omega

/-- The next page of a range command that has not come to its last one (R234). -/
theorem OnPage.next (h : OnPage s) (hword : s.seq.word = 0x20 ∨ s.seq.word = 0x21)
    (hlast : s.regs.pagesDone + 1 ≠ s.regs.pageCount) : OnPage (countPage s) := by
  have hwant : pagesWanted s = s.regs.pageCount.toNat := if_pos hword
  have hmore : s.regs.pagesDone.toNat < s.regs.pageCount.toNat := hwant ▸ h.more
  have hadd : (s.regs.pagesDone + 1).toNat = s.regs.pagesDone.toNat + 1 := by bv_omega
  have hne : s.regs.pagesDone.toNat + 1 ≠ s.regs.pageCount.toNat := by rwa [← hadd, ne_eq, BitVec.toNat_inj]
  refine ⟨h.in_range, ?_, ?_⟩
  · show s.seq.cur + 1 = s.regs.startPage.toNat + (s.regs.pagesDone + 1).toNat
    rw [hadd, h.cur_eq, Nat.add_assoc]
  · show (s.regs.pagesDone + 1).toNat < pagesWanted s
    omega

/-- A page that a poll's error carries is a page of the device (R35, R163). -/
theorem pollPage_lt (h : RetOk s) : ∀ p ∈ pollPage s, p < s.params.profile.pagesTotal := by
  intro p hp
  unfold RetOk at h
  unfold pollPage at hp
  generalize s.seq.ret = ret at h hp
  cases ret with
  | poll => cases hp
  | reset => cases hp
  | read => cases hp; exact h.2.cur_lt
  | prog => cases hp; exact h.2.cur_lt
  | erase => cases hp; exact h.in_range

/-! ### A running command -/

/-- The invariant of a busy machine but for what the phase says: it holds all through a controller step that has not
ended the command. -/
structure Running (s : State) : Prop where
  params_wf : s.params.wf = true
  mem_wf : memWf s.mem = true
  mem_inside : ∀ c ∈ s.mem, c.1 < s.params.bufSize
  buf_addr_inside : s.regs.bufAddr.toNat < s.params.bufSize
  scratch_len : s.seq.scratch.length = s.params.profile.cu
  busy : s.regs.busy = true
  done : s.regs.done = false
  err : s.regs.err = false
  errCode : s.regs.errCode = .none
  pageValid : s.regs.pageValid = false
  failPage : s.regs.failPage = 0
  ecc_order : sevCode s.regs.lastEcc ≤ sevCode s.regs.eccMax

theorem Inv.running (h : Inv s) (hp : s.seq.phase ≠ .idle) : Running s := by
  have hbusy := h.busy_iff.mpr hp
  obtain ⟨hdone, hcode, hvalid⟩ := h.busy_clear hbusy
  have hfail := h.fail_page
  rw [hvalid] at hfail
  have herr : s.regs.err = false := Bool.eq_false_iff.mpr fun he => h.err_iff.mp he hcode
  exact { h with busy := hbusy, done := hdone, err := herr, errCode := hcode, pageValid := hvalid, failPage := hfail }

theorem Running.inv (h : Running s) (hp : s.seq.phase ≠ .idle) (hok : PhaseOk s) : Inv s :=
  { h with
    busy_iff := iff_of_true h.busy hp
    busy_clear := fun _ => ⟨h.done, h.errCode, h.pageValid⟩
    err_iff := by simp [h.err, h.errCode]
    no_mismatch := by simp [h.errCode]
    fail_page := by simp [h.pageValid, h.failPage]
    phase_ok := hok }

theorem running_setPhase (ph : Phase) (h : Running s) : Running (setPhase ph s) := { h with }

theorem running_setCur (n : Nat) (h : Running s) : Running (setCur n s) := { h with }

theorem running_setStatusRaw (b : Byte) (h : Running s) : Running (setStatusRaw b s) := { h with }

theorem running_countAttempt (h : Running s) : Running (countAttempt s) := { h with }

theorem running_setIds (r : List Byte) (h : Running s) : Running (setIds r s) := { h with }

theorem running_beginPoll (r : Ret) (h : Running s) : Running (beginPoll r s) := { h with }

theorem running_afterFrame (i : Instr) (h : Running s) : Running (afterFrame i s) := { h with }

theorem running_countPage (h : Running s) : Running (countPage s) := { h with }

theorem running_countDraw (h : Running s) : Running (countDraw s) := { h with }

theorem running_setScratch {bs : List Byte} (h : Running s) (hlen : bs.length = s.params.profile.cu) :
    Running (setScratch bs s) := { h with scratch_len := hlen }

/-- A status decode keeps ECC_MAX at the highest severity (R162). -/
theorem running_decodeStatus (b : Byte) (h : Running s) : Running (decodeStatus b s) where
  params_wf := h.params_wf
  mem_wf := h.mem_wf
  mem_inside := h.mem_inside
  buf_addr_inside := by simpa using h.buf_addr_inside
  scratch_len := h.scratch_len
  busy := by simpa using h.busy
  done := by simpa using h.done
  err := by simpa using h.err
  errCode := by simpa using h.errCode
  pageValid := by simpa using h.pageValid
  failPage := by simpa using h.failPage
  ecc_order := by
    rw [decodeStatus_regs, decodeRegs_eq]
    cases reachesEcc s.params.profile b
    · exact h.ecc_order
    · exact le_sevMax_right _ _

/-- A page's store stays in canonical form and inside the address space where its slot does (R72, R192). -/
theorem running_storePage {r : List Byte} (h : Running s) (hlen : r.length = s.params.profile.cu)
    (hfit : slotFits s = true) : Running (storePage r s) :=
  { h with
    mem_wf := memWf_memWrite _ _ _ h.mem_wf
    mem_inside := by
      intro c hc
      simp only [slotFits, Bool.and_eq_true, decide_eq_true_eq] at hfit
      rcases memWrite_mem _ hc with hin | hold
      · rw [settleBytes_length, List.length_take] at hin
        show c.1 < s.params.bufSize
        omega
      · exact h.mem_inside c hold
    scratch_len := hlen }

/-! ### Ending a command and going on with it -/

theorem inv_finishOk (h : Running s) : Inv (finishOk s) :=
  { h with
    busy_iff := by simp
    busy_clear := by simp
    err_iff := by simp
    no_mismatch := by simp
    fail_page := by simp
    phase_ok := phaseOk_of_idle rfl }

/-- `raise E(page)` keeps the invariant for an error code that is written at all and a page of the device (R35, R263,
R310). -/
theorem inv_raiseError {e : ErrCode} {page : Option Nat} (h : Running s) (hnone : e ≠ .none)
    (hmismatch : e ≠ .identityMismatch) (hpage : ∀ p ∈ page, p < s.params.profile.pagesTotal) :
    Inv (raiseError e page s) :=
  { h with
    busy_iff := by simp
    busy_clear := by simp
    err_iff := by simpa using hnone
    no_mismatch := hmismatch
    fail_page := by
      cases page with
      | none => rfl
      | some p =>
        have hp := hpage p rfl
        refine ⟨rfl, ?_⟩
        show (BitVec.ofNat 32 p).toNat < s.params.profile.pagesTotal
        rwa [(page_fits h.params_wf hp).2]
    phase_ok := phaseOk_of_idle rfl }

theorem inv_setPhase {ph : Phase} (h : Running s) (hp : ph ≠ .idle) (hok : PhaseOk (setPhase ph s)) :
    Inv (setPhase ph s) := (running_setPhase ph h).inv hp hok

/-- A poll starts with no attempt counted (R163). -/
theorem inv_beginPoll {r : Ret} (h : Running s) (hret : RetOk (beginPoll r s)) : Inv (beginPoll r s) := by
  refine (running_beginPoll r h).inv (by simp) ⟨hret, ?_⟩
  rcases Nat.eq_zero_or_pos s.regs.maxAttempts.toNat with hz | hpos
  · exact .inr ⟨BitVec.eq_of_toNat_eq hz, rfl⟩
  · exact .inl hpos

/-- A frame keeps the invariant where what goes on after its answer does; a ChannelError carries a page of the device or
none (R302). -/
theorem inv_sendFrame {i : Instr} {page : Option Nat} {k : List Byte → State → State} (h : Running s)
    (hpage : ∀ p ∈ page, p < s.params.profile.pagesTotal)
    (hk : ∀ r, r.length = respLen s.params.profile i → Inv (k r (afterFrame i s))) : Inv (sendFrame i page k s) := by
  rcases sendFrame_cases i page k s with ⟨-, hs⟩ | ⟨r, -, hlen, hs⟩ <;> rw [hs]
  · exact inv_raiseError (running_afterFrame i h) (by decide) (by decide) hpage
  · exact hk r hlen

/-- The end of a page ends the command or leads to its next page (R234). -/
theorem inv_pageComplete (h : Running s) (hword : readsPages s ∨ programsPages s) (hon : OnPage s) :
    Inv (pageComplete s) := by
  have hcount := running_countPage h
  rcases pageComplete_cases s with hs | ⟨hlast, h10, h11, hs⟩
  · exact hs ▸ inv_finishOk hcount
  · rcases hword with (hw | hw) | (hw | hw)
    · exact absurd (congrArg cmdCode hw) h10
    · obtain ⟨-, hs⟩ | ⟨h20, -⟩ := hs
      · exact hs ▸ inv_setPhase hcount (by decide) ⟨.inr hw, { hon.next (.inl hw) hlast with }⟩
      · exact absurd (congrArg cmdCode hw) h20
    · exact absurd (congrArg cmdCode hw) h11
    · obtain ⟨h20, -⟩ | ⟨-, hs⟩ := hs
      · exact absurd ((congrArg cmdCode hw).symm.trans h20) (by decide)
      · exact hs ▸ inv_setPhase hcount (by decide) (.inl ⟨.inr hw, { hon.next (.inr hw) hlast with }⟩)

theorem inv_continuePoll (h : Running s) (hret : RetOk s) : Inv (continuePoll s) := by
  have hread (hr : s.seq.ret = .read) : readsPages s ∧ OnPage s := by simpa only [RetOk, hr] using hret
  have hprog (hr : s.seq.ret = .prog) : programsPages s ∧ OnPage s := by simpa only [RetOk, hr] using hret
  unfold continuePoll
  split
  · exact inv_finishOk h
  · exact inv_finishOk h
  next hr =>
    obtain ⟨hreads, hon⟩ := hread hr
    exact inv_setPhase h (by decide) ⟨hreads, { hon with }⟩
  next hr =>
    obtain ⟨hprograms, hon⟩ := hprog hr
    exact inv_pageComplete h (.inr hprograms) hon
  · exact inv_finishOk h

theorem pageKept_decodeStatus (b : Byte) (s : State) : PageKept s (decodeStatus b s) := by constructor <;> simp

theorem inv_pollReceive (b : Byte) (h : Running s) (hret : RetOk s) : Inv (pollReceive b s) := by
  have hdec := running_decodeStatus b h
  have hret' : RetOk (decodeStatus b s) := retOk_of_kept hret (pageKept_decodeStatus b s) rfl
  rcases pollReceive_cases b s with ⟨-, hlt, hs⟩ | ⟨-, -, hs⟩ | ⟨e, he, hs⟩ | ⟨v, -, hs⟩ <;> rw [hs]
  · refine inv_setPhase hdec (by decide) ⟨retOk_of_kept hret' (by constructor <;> rfl) rfl, ?_⟩
    simpa using hlt
  · exact inv_raiseError hdec (by decide) (by decide) (pollPage_lt hret)
  · refine inv_raiseError hdec ?_ ?_ (pollPage_lt hret) <;>
      rcases decodeOutcome_fail he with rfl | rfl | rfl | ⟨rfl, -⟩ <;> decide
  · exact inv_continuePoll hdec hret'

theorem inv_pollAttempt (i : Instr) (h : Running s) (hret : RetOk s) : Inv (pollAttempt i s) := by
  unfold pollAttempt
  split
  · exact inv_raiseError h (by decide) (by decide) (pollPage_lt hret)
  · refine inv_sendFrame (running_countAttempt h) (pollPage_lt hret) fun r _ => ?_
    exact inv_pollReceive _ (running_afterFrame i (running_countAttempt h))
      (retOk_of_kept hret (by constructor <;> rfl) rfl)

/-! ### The START steps -/

/-- START of a buffer command enters its first phase at the first page of a checked range (R190, R195, R230, R232,
R236). -/
theorem inv_startPages {count : Nat} {first : Phase} (h : Running s) (hdone : s.regs.pagesDone = 0)
    (hcount : count = pagesWanted s) (hfirst : first ≠ .idle)
    (hok : OnPage (setPhase first (setCur s.regs.startPage.toNat s)) →
      PhaseOk (setPhase first (setCur s.regs.startPage.toNat s))) : Inv (startPages count first s) := by
  subst hcount
  rcases startPages_cases (pagesWanted s) first s with ⟨-, hs⟩ | ⟨-, -, hs⟩ | ⟨hrange, hpos, hs⟩ <;> rw [hs]
  · exact inv_raiseError h (by decide) (by decide) (by simp)
  · exact inv_finishOk (running_setCur _ h)
  · refine inv_setPhase (running_setCur _ h) hfirst (hok ⟨hrange, ?_, ?_⟩)
    · simp [hdone]
    · show s.regs.pagesDone.toNat < pagesWanted s
      simpa [hdone] using hpos

theorem inv_execEraseBlock (h : Running s) (hword : s.seq.word = 0x12) (ht : execEraseBlock s = .next t) : Inv t := by
  rcases execEraseBlock_cases s with ⟨hlt, he⟩ | he <;> cases he.symm.trans ht
  · exact inv_setPhase (running_setCur _ h) (by decide) (.inr ⟨hword, rfl, hlt⟩)
  · exact inv_raiseError h (by decide) (by decide) (by simp)

/-- The START step of the command that the word names keeps the invariant (R111). -/
theorem inv_exec_command {i : Instr} (hi : Inv s) (hp : s.seq.phase = .start)
    (hdec : decodeCommand s.seq.word = .ok i) (ht : exec i s = .next t) : Inv t := by
  have h : Running s := hi.running (by simp [hp])
  have hdone : s.regs.pagesDone = 0 := by simpa [PhaseOk, hp] using hi.phase_ok
  obtain ⟨c, hc, hword⟩ := decodeCommand_ok hdec
  cases i with
  | reset => cases hc; cases ht; exact inv_setPhase h (by decide) hword
  | identify => cases hc; cases ht; exact inv_setPhase h (by decide) (.inl hword)
  | getStatus => cases hc; cases ht; exact inv_setPhase h (by decide) (.inr (.inl hword))
  | setStatus => cases hc; cases ht; exact inv_setPhase h (by decide) (.inr (.inr (.inl hword)))
  | writeEnable => cases hc; cases ht; exact inv_setPhase h (by decide) (.inr (.inr (.inr (.inl hword))))
  | writeDisable => cases hc; cases ht; exact inv_setPhase h (by decide) (.inr (.inr (.inr (.inr hword))))
  | poll => cases hc; cases ht; exact inv_beginPoll h hword
  | readPage =>
    cases hc; cases ht
    exact inv_startPages h hdone (by simp [pagesWanted, hword]) (by decide) fun hon => ⟨.inl hword, hon⟩
  | programPage =>
    cases hc; cases ht
    exact inv_startPages h hdone (by simp [pagesWanted, hword]) (by decide) fun hon => .inl ⟨.inl hword, hon⟩
  | eraseBlock => cases hc; exact inv_execEraseBlock h hword ht
  | readRange =>
    cases hc; cases ht
    exact inv_startPages h hdone (by simp [pagesWanted, hword]) (by decide) fun hon => ⟨.inr hword, hon⟩
  | programRange =>
    cases hc; cases ht
    exact inv_startPages h hdone (by simp [pagesWanted, hword]) (by decide) fun hon => .inl ⟨.inr hword, hon⟩
  | _ => cases hc

/-! ### The frames -/

theorem inv_fPageReadToCache {p : Nat} (hi : Inv s) (ht : exec (.fPageReadToCache p) s = .next t) : Inv t := by
  obtain ⟨hp, -, rfl⟩ := execFPageReadToCache_next ht
  have h : Running s := hi.running (by simp [hp])
  obtain ⟨hreads, hon⟩ : readsPages s ∧ OnPage s := by simpa [PhaseOk, hp] using hi.phase_ok
  exact inv_sendFrame h (by simpa using hon.cur_lt) fun _ _ =>
    inv_beginPoll (running_afterFrame _ h) ⟨hreads, { hon with }⟩

theorem inv_fReadFromCache (hi : Inv s) (ht : exec .fReadFromCache s = .next t) : Inv t := by
  obtain ⟨hp, hfit, rfl⟩ := execFReadFromCache_next ht
  have h : Running s := hi.running (by simp [hp])
  obtain ⟨hreads, hon⟩ : readsPages s ∧ OnPage s := by simpa [PhaseOk, hp] using hi.phase_ok
  exact inv_sendFrame h (by simpa using hon.cur_lt) fun _ hlen =>
    inv_pageComplete (running_storePage (running_afterFrame _ h) hlen hfit) (.inl hreads) { hon with }

theorem inv_fProgramLoad {d : List Byte} (hi : Inv s) (ht : exec (.fProgramLoad d) s = .next t) : Inv t := by
  obtain ⟨hp, -, hlen, rfl⟩ := execFProgramLoad_next ht
  have h : Running s := hi.running (by simp [hp])
  obtain ⟨hprograms, hon⟩ : programsPages s ∧ OnPage s := by simpa [PhaseOk, hp] using hi.phase_ok
  have hload := running_countDraw (running_setScratch h hlen)
  exact inv_sendFrame hload (by simpa using hon.cur_lt) fun _ _ =>
    inv_setPhase (running_afterFrame _ hload) (by decide) ⟨hprograms, { hon with }⟩

theorem inv_fProgramExecute {p : Nat} (hi : Inv s) (ht : exec (.fProgramExecute p) s = .next t) : Inv t := by
  obtain ⟨hp, -, rfl⟩ := execFProgramExecute_next ht
  have h : Running s := hi.running (by simp [hp])
  obtain ⟨hprograms, hon⟩ : programsPages s ∧ OnPage s := by simpa [PhaseOk, hp] using hi.phase_ok
  exact inv_sendFrame h (by simpa using hon.cur_lt) fun _ _ =>
    inv_beginPoll (running_afterFrame _ h) ⟨hprograms, { hon with }⟩

theorem inv_fBlockErase {p : Nat} (hi : Inv s) (ht : exec (.fBlockErase p) s = .next t) : Inv t := by
  obtain ⟨hp, -, rfl⟩ := execFBlockErase_next ht
  have h : Running s := hi.running (by simp [hp])
  have her : Erasing s := by simpa [PhaseOk, hp] using hi.phase_ok
  exact inv_sendFrame h (by simpa using her.in_range) fun _ _ =>
    inv_beginPoll (r := .erase) (running_afterFrame _ h) ⟨her.word_eq, her.cur_eq, her.in_range⟩

theorem inv_fReset (hi : Inv s) (ht : exec .fReset s = .next t) : Inv t := by
  obtain ⟨hp, rfl⟩ := execFReset_next ht
  have h : Running s := hi.running (by simp [hp])
  have hword : s.seq.word = 0x01 := by simpa [PhaseOk, hp] using hi.phase_ok
  exact inv_sendFrame h (by simp) fun _ _ => inv_beginPoll (running_afterFrame _ h) hword

/-- The write-enable of a program or an erase leads to that command's next frame (R196, R201). -/
theorem inv_fWriteEnable (hi : Inv s) (ht : exec .fWriteEnable s = .next t) : Inv t := by
  obtain ⟨hp, rfl⟩ | ⟨hp, rfl⟩ := execFWriteEnable_next ht
  · have h : Running s := hi.running (by simp [hp])
    have hok : (programsPages s ∧ OnPage s) ∨ Erasing s := by simpa [PhaseOk, hp] using hi.phase_ok
    have hpage : s.seq.cur < s.params.profile.pagesTotal := hok.elim (·.2.cur_lt) (·.in_range)
    refine inv_sendFrame h (by simpa using hpage) fun _ _ => ?_
    have hafter := running_afterFrame .fWriteEnable h
    rcases hok with ⟨hprograms, hon⟩ | her
    · have hcode : cmdCode s.seq.word ≠ 0x12 := by rcases hprograms with hw | hw <;> rw [hw] <;> decide
      rw [afterFrame_seq, if_neg hcode]
      exact inv_setPhase hafter (by decide) ⟨hprograms, { hon with }⟩
    · have hcode : cmdCode s.seq.word = 0x12 := by rw [her.word_eq]; decide
      rw [afterFrame_seq, if_pos hcode]
      exact inv_setPhase hafter (by decide) (show Erasing _ from { her with })
  · have h : Running s := hi.running (by simp [hp])
    exact inv_sendFrame h (by simp) fun _ _ => inv_finishOk (running_afterFrame _ h)

theorem inv_fGetStatus {a : Byte} (hi : Inv s) (ht : exec (.fGetStatus a) s = .next t) : Inv t := by
  obtain ⟨hp, rfl⟩ | ⟨hp, rfl⟩ := execFGetStatus_next ht
  · have hok := hi.phase_ok
    simp only [PhaseOk, hp] at hok
    exact inv_pollAttempt _ (hi.running (by simp [hp])) hok.1
  · have h : Running s := hi.running (by simp [hp])
    exact inv_sendFrame h (by simp) fun _ _ => inv_finishOk (running_setStatusRaw _ (running_afterFrame _ h))

theorem inv_fSetStatus {a v : Byte} (hi : Inv s) (ht : exec (.fSetStatus a v) s = .next t) : Inv t := by
  obtain ⟨hp, rfl⟩ := execFSetStatus_next ht
  have h : Running s := hi.running (by simp [hp])
  exact inv_sendFrame h (by simp) fun _ _ => inv_finishOk (running_afterFrame _ h)

theorem inv_fWriteDisable (hi : Inv s) (ht : exec .fWriteDisable s = .next t) : Inv t := by
  obtain ⟨hp, rfl⟩ := execFWriteDisable_next ht
  have h : Running s := hi.running (by simp [hp])
  exact inv_sendFrame h (by simp) fun _ _ => inv_finishOk (running_afterFrame _ h)

theorem inv_fReadId (hi : Inv s) (ht : exec .fReadId s = .next t) : Inv t := by
  obtain ⟨hp, rfl⟩ := execFReadId_next ht
  have h : Running s := hi.running (by simp [hp])
  exact inv_sendFrame h (by simp) fun _ _ => inv_finishOk (running_setIds _ (running_afterFrame _ h))

/-- A phase sends frames only, never a command row (R47). -/
theorem phaseFrame_commandCode {i : Instr} (h : phaseFrame s = some i) : commandCode i = none := by
  unfold phaseFrame singleFrame at h
  split at h
  case h_12 => split at h <;> cases h <;> rfl
  all_goals cases h <;> rfl

theorem inv_exec_frame {i : Instr} (hi : Inv s) (hf : commandCode i = none) (ht : exec i s = .next t) : Inv t := by
  cases i with
  | fPageReadToCache p => exact inv_fPageReadToCache hi ht
  | fReadFromCache => exact inv_fReadFromCache hi ht
  | fProgramLoad d => exact inv_fProgramLoad hi ht
  | fProgramExecute p => exact inv_fProgramExecute hi ht
  | fBlockErase p => exact inv_fBlockErase hi ht
  | fGetStatus a => exact inv_fGetStatus hi ht
  | fSetStatus a v => exact inv_fSetStatus hi ht
  | fReset => exact inv_fReset hi ht
  | fWriteEnable => exact inv_fWriteEnable hi ht
  | fWriteDisable => exact inv_fWriteDisable hi ht
  | fReadId => exact inv_fReadId hi ht
  | _ => cases hf

theorem inv_controllerStep (hi : Inv s) (ht : controllerStep s = .next t) : Inv t := by
  rcases controllerStep_next ht with ⟨-, rfl⟩ | ⟨hp, i, hdec, he⟩ | ⟨hp, rfl⟩ | ⟨hp, rfl⟩ | ⟨i, hf, he⟩
  · exact hi
  · exact inv_exec_command hi hp hdec he
  · exact inv_raiseError (hi.running (by simp [hp])) (by decide) (by decide) (by simp)
  · have hok := hi.phase_ok
    simp only [PhaseOk, hp] at hok
    exact inv_setPhase (hi.running (by simp [hp])) (by decide)
      ⟨retOk_of_kept hok.1 (by constructor <;> rfl) rfl, .inl hok.2⟩
  · exact inv_exec_frame hi (phaseFrame_commandCode hf) he

/-! ### Reset and the host's moves -/

theorem bufSize_pos (c : Params) : 0 < c.bufSize := Nat.two_pow_pos _

/-- Registers and sequencer at their reset values meet the invariant over any sound memory and any scratch of length CU
(R50, R340). -/
theorem inv_of_reset {bs : List Byte} (hregs : s.regs = Regs.reset) (hseq : s.seq = Seq.resetWith bs)
    (hlen : bs.length = s.params.profile.cu) (hparams : s.params.wf = true) (hmem : memWf s.mem = true)
    (hinside : ∀ c ∈ s.mem, c.1 < s.params.bufSize) : Inv s where
  params_wf := hparams
  mem_wf := hmem
  mem_inside := hinside
  buf_addr_inside := by rw [hregs]; exact bufSize_pos _
  scratch_len := by rw [hseq]; exact hlen
  busy_iff := by rw [hregs, hseq]; exact iff_of_false Bool.false_ne_true (· rfl)
  busy_clear := by rw [hregs]; decide
  err_iff := by rw [hregs]; decide
  no_mismatch := by rw [hregs]; decide
  fail_page := by rw [hregs]; rfl
  ecc_order := by rw [hregs]; decide
  phase_ok := phaseOk_of_idle (by rw [hseq]; rfl)

theorem inv_nfcReset (hi : Inv s) : Inv (nfcReset s) :=
  inv_of_reset rfl rfl (freeScratch_length s) hi.params_wf hi.mem_wf hi.mem_inside

theorem phase_eq_idle_of_not_busy (hi : Inv s) (hb : s.regs.busy = false) : s.seq.phase = .idle := by
  by_contra hp
  exact Bool.false_ne_true (hb.symm.trans (hi.busy_iff.mpr hp))

/-- The invariant speaks of parameters, registers, sequencer and buffer memory, and of nothing else of the state. -/
theorem inv_of_same (hi : Inv s) (hparams : t.params = s.params) (hregs : t.regs = s.regs) (hseq : t.seq = s.seq)
    (hmem : t.mem = s.mem) : Inv t := by
  cases s; cases t
  cases hparams; cases hregs; cases hseq; cases hmem
  exact { hi with phase_ok := phaseOk_of_kept hi.phase_ok ⟨by constructor <;> rfl, rfl, rfl, rfl, rfl⟩ }

theorem inv_resetInTransceive (hi : Inv s) : Inv (resetInTransceive s) := by
  rcases resetInTransceive_cases s with h | ⟨i, h⟩ <;> rw [h]
  · exact inv_nfcReset hi
  · exact inv_nfcReset (inv_of_same hi rfl rfl rfl rfl)

theorem inv_hostBufWrite {a : Nat} (b : Byte) (ha : a < s.params.bufSize) (hi : Inv s) : Inv (hostBufWrite a b s) :=
  { hi with
    mem_wf := memWf_memPut _ _ _ hi.mem_wf
    mem_inside := by
      intro c hc
      rcases memPut_mem hc with hca | hold
      · exact hca ▸ ha
      · exact hi.mem_inside c hold
    phase_ok := phaseOk_of_kept hi.phase_ok ⟨by constructor <;> rfl, rfl, rfl, rfl, rfl⟩ }

theorem inv_setOvr (hi : Inv s) : Inv (setOvr s) :=
  { hi with phase_ok := phaseOk_of_kept hi.phase_ok ⟨by constructor <;> rfl, rfl, rfl, rfl, rfl⟩ }

theorem inv_writeCtrl (v : Word) (hi : Inv s) : Inv (writeCtrl v s) :=
  { hi with phase_ok := phaseOk_of_kept hi.phase_ok ⟨by constructor <;> rfl, rfl, rfl, rfl, rfl⟩ }

/-- Clearing DONE and OVR is no news to a running command, whose DONE is 0 (R25, R45). -/
theorem inv_writeStatus (v : Word) (hi : Inv s) : Inv (writeStatus v s) :=
  { hi with
    busy_clear := by
      intro hb
      obtain ⟨hdone, hrest⟩ := hi.busy_clear hb
      exact ⟨by simp [hdone], hrest⟩
    phase_ok := phaseOk_of_kept hi.phase_ok ⟨by constructor <;> rfl, rfl, rfl, rfl, rfl⟩ }

/-- Acceptance clears the earlier command's outcome and starts at phase START with no page done (R45). -/
theorem inv_acceptCommand (w : Word) (hi : Inv s) : Inv (acceptCommand w s) :=
  { hi with
    busy_iff := by simp
    busy_clear := by simp
    err_iff := by simp
    no_mismatch := by simp
    fail_page := by simp
    ecc_order := by simp
    phase_ok := rfl }

theorem inv_writeCmd (v : Word) (hi : Inv s) : Inv (writeCmd v s) := by
  rcases writeCmd_cases v s with ⟨-, h⟩ | ⟨-, h⟩ <;> rw [h]
  · exact inv_setOvr hi
  · exact inv_acceptCommand v hi

/-- A parameter register may take a value that keeps the invariant while the machine is idle: a busy one drops it (R46). -/
theorem inv_writeParam {r : Regs} (hi : Inv s) (hidle : PhaseOk { s with regs := r } → Inv { s with regs := r }) :
    Inv (writeParam s r) := by
  rcases writeParam_cases s r with ⟨-, h⟩ | ⟨hb, h⟩ <;> rw [h]
  · exact inv_setOvr hi
  · have hp := phase_eq_idle_of_not_busy hi hb
    exact hidle (phaseOk_of_idle hp)

theorem bufAddrField_lt (c : Params) (v : Word) : (bufAddrField c v).toNat < c.bufSize := by
  rw [bufAddrField, BitVec.toNat_ofNat]
  exact (Nat.mod_le _ _).trans_lt (Nat.mod_lt _ (bufSize_pos c))

theorem inv_writeReg (r : Reg) (v : Word) (hi : Inv s) : Inv (writeReg r v s) := by
  cases r with
  | ctrl => exact inv_writeCtrl v hi
  | status => exact inv_writeStatus v hi
  | cmd => exact inv_writeCmd v hi
  | startPage => exact inv_writeParam hi fun hok => { hi with phase_ok := hok }
  | pageCount => exact inv_writeParam hi fun hok => { hi with phase_ok := hok }
  | bufAddr =>
    exact inv_writeParam hi fun hok => { hi with buf_addr_inside := bufAddrField_lt _ v, phase_ok := hok }
  | bufLen => exact inv_writeParam hi fun hok => { hi with phase_ok := hok }
  | maxAttempts => exact inv_writeParam hi fun hok => { hi with phase_ok := hok }
  | pollDelay => exact inv_writeParam hi fun hok => { hi with phase_ok := hok }
  | regArg => exact inv_writeParam hi fun hok => { hi with phase_ok := hok }
  | _ => exact hi

theorem inv_writeOffset (off : Nat) (v : Word) (hi : Inv s) : Inv (writeOffset off v s) := by
  unfold writeOffset
  split
  · exact inv_writeReg _ v hi
  · exact hi

/-! ### The invariant along every step -/

theorem inv_inputStep {e : Input} (hi : Inv s) (ht : inputStep e s = .next t) : Inv t := by
  cases e with
  | nfc => exact inv_controllerStep hi ht
  | regWrite off width v => obtain rfl := regAccess_next ht; exact inv_writeOffset off v hi
  | regRead off width => obtain rfl := regAccess_next ht; exact inv_of_same hi rfl rfl rfl rfl
  | bufWrite a b => obtain ⟨ha, rfl⟩ := bufAccess_next ht; exact inv_hostBufWrite b ha hi
  | bufRead a => obtain ⟨-, rfl⟩ := bufAccess_next ht; exact inv_of_same hi rfl rfl rfl rfl
  | waitDone => cases ht; exact inv_of_same hi rfl rfl rfl rfl
  | reset => cases ht; exact inv_nfcReset hi
  | resetInTransceive => cases ht; exact inv_resetInTransceive hi

theorem inv_step (hi : Inv s) (ht : step s = .next t) : Inv t := by
  obtain ⟨-, ⟨-, hc⟩ | ⟨e, rest, -, he⟩⟩ := step_next ht
  · exact inv_controllerStep hi hc
  · exact inv_inputStep (s := { s with inputs := rest }) (inv_of_same hi rfl rfl rfl rfl) he

/-- Settles O41: the reset values meet the invariant over the empty memory, with P_REF well-formed and scratch zeros of
length CU. -/
theorem invariantHoldsAtReset : Obligations.InvariantHoldsAtReset :=
  inv_of_reset rfl rfl List.length_replicate (by decide) rfl (fun _ h => absurd h List.not_mem_nil)

/-- Settles O42: a controller step keeps the invariant by the phase it is in, a host move by the registers or the byte it
writes, and NFC reset starts over. -/
theorem invariantIsKeptByEveryStep : Obligations.InvariantIsKeptByEveryStep := fun _ _ hi ht => inv_step hi ht

end Sys2Proof.Machine
end

section
/-! SUPPORT. The steps of 10_state.md: which move a step makes (R47, R304), acceptance of a command (R45), and what NFC
reset leaves (R50, R340, R341). -/

namespace Sys2Proof.Machine

variable {s t : State}

/-! ### Which move a step makes -/

/-- Where nothing is planned, a step is the controller's (R47; log 3). -/
theorem step_of_no_inputs (hwf : s.params.wf = true) (hin : s.inputs = []) : step s = controllerStep s := by
  rw [step_eq hwf, hin]

theorem step_of_input {e : Input} {rest : List Input} (hwf : s.params.wf = true) (hin : s.inputs = e :: rest) :
    step s = inputStep e { s with inputs := rest } := by
  rw [step_eq hwf, hin]

theorem inputStep_nfc (s : State) : inputStep .nfc s = controllerStep s := rfl

theorem regAccess_word {off : Nat} (t : State) (halign : off % 4 = 0) (hwin : off < 256) :
    regAccess off 4 t = .next t := by
  simp [regAccess, halign, hwin]

theorem step_regWrite {off : Nat} {v : Word} {rest : List Input} (hwf : s.params.wf = true) (halign : off % 4 = 0)
    (hwin : off < 256) (hin : s.inputs = .regWrite off 4 v :: rest) :
    step s = .next (writeOffset off v { s with inputs := rest }) :=
  (step_of_input hwf hin).trans (regAccess_word _ halign hwin)

theorem step_regRead {off : Nat} {rest : List Input} (hwf : s.params.wf = true) (halign : off % 4 = 0)
    (hwin : off < 256) (hin : s.inputs = .regRead off 4 :: rest) :
    step s = .next { s with inputs := rest, readData := some (readOffset s off) } :=
  (step_of_input hwf hin).trans (regAccess_word _ halign hwin)

theorem controllerStep_start_ok {i : Instr} (hp : s.seq.phase = .start) (hdec : decodeCommand s.seq.word = .ok i) :
    controllerStep s = exec i s := by
  rw [controllerStep_start hp, startStep, hdec]

/-- In START a word outside R111's table ends the command with ILLEGAL_COMMAND (R112). -/
theorem controllerStep_start_illegal (hp : s.seq.phase = .start) (hword : s.seq.word ∉ commandWords) :
    controllerStep s = .next (raiseError .illegalCommand none s) := by
  rw [controllerStep_start hp, startStep]
  cases hdec : decodeCommand s.seq.word with
  | error e => rfl
  | ok i =>
    obtain ⟨c, hc, hw⟩ := decodeCommand_ok hdec
    refine absurd ?_ hword
    rw [hw]
    cases i <;> cases hc <;> decide

theorem withFetchWord_command (s : State) (w : Nat) :
    s.withFetchWord 32 w = staged (BitVec.ofNat 32 w) .start s := rfl

/-- Settles O6: a step without a plan is the controller's, and a placed word puts the controller's move first in the
plan. -/
theorem stepRunsTheDecodedInstruction : Obligations.StepRunsTheDecodedInstruction := by
  refine ⟨?_, ?_, ?_, ?_, ?_, ?_⟩
  · intro s i hwf hin hp hdec
    rw [step_of_no_inputs hwf hin, controllerStep_start_ok hp hdec]
  · intro s i hwf hin hf
    rw [step_of_no_inputs hwf hin, controllerStep_frame hf]
  · intro s rest hwf hin
    exact step_of_input hwf hin
  · intro s hwf hin hp
    rw [step_of_no_inputs hwf hin, controllerStep, hp]
  · intro s hwf hin hp
    rw [step_of_no_inputs hwf hin, controllerStep, hp]
  · intro s w i hwf hdec
    rw [withFetchWord_command, step_of_input (s := staged _ _ s) hwf rfl, inputStep_nfc]
    exact controllerStep_start_ok rfl hdec

/-- Settles O32: a whole word in the window is read by one step that sets the host's variable alone. -/
theorem registerReadHasNoSideEffect : Obligations.RegisterReadHasNoSideEffect :=
  ⟨fun _ _ _ hwf halign hwin hin => step_regRead hwf halign hwin hin, fun _ => ⟨rfl, rfl, rfl⟩⟩

/-! ### Acceptance -/

theorem writeCmd_of_idle (w : Word) (hb : s.regs.busy = false) : writeCmd w s = acceptCommand w s := by
  simp [writeCmd, hb]

theorem step_accept {w : Word} {rest : List Input} (hwf : s.params.wf = true) (hb : s.regs.busy = false)
    (hin : s.inputs = .regWrite 0x08 4 w :: rest) : step s = .next (acceptCommand w { s with inputs := rest }) :=
  (step_regWrite hwf (by decide) (by decide) hin).trans (congrArg _ (writeCmd_of_idle w hb))

/-- Settles O9: the write to CMD is `acceptCommand`, and an illegal word ends in the START step. -/
theorem acceptanceOfACommand : Obligations.AcceptanceOfACommand := by
  intro s w rest hwf hb hin
  refine ⟨_, step_accept hwf hb hin, rfl, rfl, rfl, rfl, rfl, rfl, fun hword => ?_⟩
  refine ⟨_, controllerStep_start_illegal rfl hword, ?_, rfl, rfl⟩
  constructor <;> rfl

/-! ### Reset -/

/-- At their reset values the registers read 0 at every offset of the window (R50). -/
theorem readOffset_of_reset (h : s.regs = Regs.reset) (off : Nat) : readOffset s off = 0 := by
  obtain ⟨params, regs, seq, mem, chan, inputs, readData, race, racedReads, draws⟩ := s
  cases h
  unfold readOffset
  split
  next r _ => cases r <;> rfl
  · rfl

/-- Settles O39: the reset values read 0, and without a plan the idle controller waits. -/
theorem resetState : Obligations.ResetState := by
  have hwait : step State.reset = .next State.reset := step_of_no_inputs (by decide) rfl
  exact ⟨readOffset_of_reset rfl, rfl, rfl, rfl, rfl, rfl, rfl, hwait⟩

/-- The frame that a reset in a Transceive cuts off is the phase's (R340). -/
theorem resetInTransceive_phaseFrame (s : State) : resetInTransceive s = nfcReset s ∨
    ∃ i, phaseFrame s = some i ∧ resetInTransceive s = nfcReset (cutFrame i s) := by
  unfold resetInTransceive
  split
  next i hi =>
    refine .inr ⟨i, ?_, rfl⟩
    unfold frameInFlight at hi
    split at hi
    · cases hi
    · exact hi
  · exact .inl rfl

/-- Settles O40: both inputs end in `nfcReset`, and only the one during a Transceive records a frame. -/
theorem nfcResetEffect : Obligations.NfcResetEffect := by
  intro s rest hwf
  constructor
  · intro hin
    exact ⟨_, step_of_input hwf hin, readOffset_of_reset rfl, rfl, rfl, rfl, rfl, rfl, rfl, rfl, rfl, rfl, rfl, rfl⟩
  · intro hin
    have hstep : step s = .next (resetInTransceive { s with inputs := rest }) := step_of_input hwf hin
    rcases resetInTransceive_phaseFrame { s with inputs := rest } with h | ⟨i, hi, h⟩ <;> rw [h] at hstep
    · exact ⟨_, hstep, readOffset_of_reset rfl, rfl, rfl, rfl, rfl, rfl, rfl, rfl, .inl rfl⟩
    · exact ⟨_, hstep, readOffset_of_reset rfl, rfl, rfl, rfl, rfl, rfl, rfl, rfl, .inr ⟨i, hi, rfl⟩⟩

end Sys2Proof.Machine
end

section
/-! SUPPORT. BUSY and the Command Channel along a step: BUSY is 1 exactly while the phase is not IDLE (R48), and a
controller step makes at most one Transceive, which TXN_COUNT counts (R38). -/

namespace Sys2Proof.Machine

variable {s t : State}

/-! ### The Transceive of a step -/

/-- The channel with TXN_COUNT: what a Transceive changes and nothing else of a controller step does (R38, R80). -/
def channelSide (s : State) : Channel × Word := (s.chan, s.regs.txnCount)

theorem channelSide_startPages (count : Nat) (first : Phase) (s : State) :
    channelSide (startPages count first s) = channelSide s := by
  rcases startPages_cases count first s with ⟨-, h⟩ | ⟨-, -, h⟩ | ⟨-, -, h⟩ <;> rw [h] <;> rfl

theorem channelSide_pageComplete (s : State) : channelSide (pageComplete s) = channelSide s := by
  rcases pageComplete_cases s with h | ⟨-, -, -, ⟨-, h⟩ | ⟨-, h⟩⟩ <;> rw [h] <;> rfl

theorem channelSide_continuePoll (s : State) : channelSide (continuePoll s) = channelSide s := by
  unfold continuePoll
  split
  case h_4 => exact channelSide_pageComplete s
  all_goals rfl

theorem channelSide_decodeStatus (b : Byte) (s : State) : channelSide (decodeStatus b s) = channelSide s := by
  simp [channelSide]

theorem channelSide_pollReceive (b : Byte) (s : State) : channelSide (pollReceive b s) = channelSide s := by
  have hdec := channelSide_decodeStatus b s
  rcases pollReceive_cases b s with ⟨-, -, h⟩ | ⟨-, -, h⟩ | ⟨e, -, h⟩ | ⟨v, -, h⟩ <;> rw [h]
  · exact hdec
  · exact hdec
  · exact hdec
  · exact (channelSide_continuePoll _).trans hdec

/-- Sending a frame is one Transceive where what goes on after the answer sends nothing. -/
theorem channelSide_sendFrame (i : Instr) (page : Option Nat) {k : List Byte → State → State} (s : State)
    (hk : ∀ r u, channelSide (k r u) = channelSide u) :
    channelSide (sendFrame i page k s) = channelSide (afterFrame i s) := by
  rcases sendFrame_cases i page k s with ⟨-, h⟩ | ⟨r, -, -, h⟩ <;> rw [h]
  · rfl
  · exact hk r _

theorem channelSide_pollAttempt (i : Instr) (s : State) :
    channelSide (pollAttempt i s) = channelSide s ∨ channelSide (pollAttempt i s) = channelSide (afterFrame i s) := by
  unfold pollAttempt
  split
  · exact .inl rfl
  · exact .inr (channelSide_sendFrame i _ _ fun _ _ => channelSide_pollReceive _ _)

/-- An instruction sends nothing, or its one frame. -/
theorem channelSide_exec {i : Instr} (h : exec i s = .next t) :
    channelSide t = channelSide s ∨ channelSide t = channelSide (afterFrame i s) := by
  cases i with
  | reset => cases h; exact .inl rfl
  | identify => cases h; exact .inl rfl
  | getStatus => cases h; exact .inl rfl
  | setStatus => cases h; exact .inl rfl
  | writeEnable => cases h; exact .inl rfl
  | writeDisable => cases h; exact .inl rfl
  | poll => cases h; exact .inl rfl
  | readPage => cases h; exact .inl (channelSide_startPages _ _ s)
  | programPage => cases h; exact .inl (channelSide_startPages _ _ s)
  | readRange => cases h; exact .inl (channelSide_startPages _ _ s)
  | programRange => cases h; exact .inl (channelSide_startPages _ _ s)
  | eraseBlock => rcases execEraseBlock_cases s with ⟨-, he⟩ | he <;> cases he.symm.trans h <;> exact .inl rfl
  | fPageReadToCache p =>
    obtain ⟨-, -, rfl⟩ := execFPageReadToCache_next h
    exact .inr (channelSide_sendFrame _ _ s fun _ _ => rfl)
  | fReadFromCache =>
    obtain ⟨-, -, rfl⟩ := execFReadFromCache_next h
    exact .inr (channelSide_sendFrame _ _ s fun _ _ => channelSide_pageComplete _)
  | fProgramLoad d =>
    obtain ⟨-, -, -, rfl⟩ := execFProgramLoad_next h
    exact .inr (channelSide_sendFrame _ _ _ fun _ _ => rfl)
  | fProgramExecute p =>
    obtain ⟨-, -, rfl⟩ := execFProgramExecute_next h
    exact .inr (channelSide_sendFrame _ _ s fun _ _ => rfl)
  | fBlockErase p =>
    obtain ⟨-, -, rfl⟩ := execFBlockErase_next h
    exact .inr (channelSide_sendFrame _ _ s fun _ _ => rfl)
  | fGetStatus a =>
    obtain ⟨-, rfl⟩ | ⟨-, rfl⟩ := execFGetStatus_next h
    · exact channelSide_pollAttempt _ s
    · exact .inr (channelSide_sendFrame _ _ s fun _ _ => rfl)
  | fSetStatus a v =>
    obtain ⟨-, rfl⟩ := execFSetStatus_next h
    exact .inr (channelSide_sendFrame _ _ s fun _ _ => rfl)
  | fReset =>
    obtain ⟨-, rfl⟩ := execFReset_next h
    exact .inr (channelSide_sendFrame _ _ s fun _ _ => rfl)
  | fWriteEnable =>
    obtain ⟨-, rfl⟩ | ⟨-, rfl⟩ := execFWriteEnable_next h <;>
      exact .inr (channelSide_sendFrame _ _ s fun _ _ => rfl)
  | fWriteDisable =>
    obtain ⟨-, rfl⟩ := execFWriteDisable_next h
    exact .inr (channelSide_sendFrame _ _ s fun _ _ => rfl)
  | fReadId =>
    obtain ⟨-, rfl⟩ := execFReadId_next h
    exact .inr (channelSide_sendFrame _ _ s fun _ _ => rfl)

/-- A controller step sends nothing, or one frame (R48). -/
theorem channelSide_controllerStep (h : controllerStep s = .next t) :
    channelSide t = channelSide s ∨ ∃ i, channelSide t = channelSide (afterFrame i s) := by
  rcases controllerStep_next h with ⟨-, rfl⟩ | ⟨-, i, -, hi⟩ | ⟨-, rfl⟩ | ⟨-, rfl⟩ | ⟨i, -, hi⟩
  · exact .inl rfl
  · exact (channelSide_exec hi).imp_right fun h => ⟨i, h⟩
  · exact .inl rfl
  · exact .inl rfl
  · exact (channelSide_exec hi).imp_right fun h => ⟨i, h⟩

/-- A controller step adds at most one transaction to the channel's record, and TXN_COUNT counts it modulo 2^32. -/
theorem controllerStep_txns (h : controllerStep s = .next t) :
    ∃ l : List Transaction, t.chan.sent = s.chan.sent ++ l ∧ l.length ≤ 1 ∧
      t.regs.txnCount.toNat = (s.regs.txnCount.toNat + l.length) % 2 ^ 32 := by
  rcases channelSide_controllerStep h with hs | ⟨i, hs⟩ <;> obtain ⟨hchan, hcount⟩ := Prod.mk.inj hs
  · refine ⟨[], by rw [hchan, List.append_nil], by simp, ?_⟩
    rw [hcount, List.length_nil, Nat.add_zero, Nat.mod_eq_of_lt s.regs.txnCount.isLt]
  · refine ⟨[frameTxn s.params.profile i], by rw [hchan, afterFrame_sent], by simp, ?_⟩
    rw [hcount]
    exact BitVec.toNat_add _ _

/-- Settles O46: what a step adds to the record is counted, and acceptance and the read of 0x38 are the model's own
equations. -/
theorem txnCountCountsTransceives : Obligations.TxnCountCountsTransceives := by
  refine ⟨fun s t h => ?_, fun _ _ => ⟨rfl, rfl⟩, fun _ => rfl⟩
  obtain ⟨l, hsent, -, hcount⟩ := controllerStep_txns h
  exact ⟨l, hsent, hcount⟩

/-! ### BUSY -/

/-- BUSY is 1 exactly while the phase is not IDLE (R48). -/
def BusyIffRunning (s : State) : Prop := s.regs.busy = true ↔ s.seq.phase ≠ .idle

theorem busyIffRunning_raiseError (e : ErrCode) (page : Option Nat) (s : State) :
    BusyIffRunning (raiseError e page s) := by simp [BusyIffRunning]

theorem busyIffRunning_finishOk (s : State) : BusyIffRunning (finishOk s) := by simp [BusyIffRunning]

theorem busyIffRunning_setPhase {ph : Phase} (hb : s.regs.busy = true) (hp : ph ≠ .idle) :
    BusyIffRunning (setPhase ph s) := iff_of_true hb hp

theorem busyIffRunning_beginPoll (r : Ret) (hb : s.regs.busy = true) : BusyIffRunning (beginPoll r s) :=
  iff_of_true hb (by simp)

theorem busyIffRunning_startPages {count : Nat} {first : Phase} (hb : s.regs.busy = true) (hp : first ≠ .idle) :
    BusyIffRunning (startPages count first s) := by
  rcases startPages_cases count first s with ⟨-, h⟩ | ⟨-, -, h⟩ | ⟨-, -, h⟩ <;> rw [h]
  · exact busyIffRunning_raiseError _ _ _
  · exact busyIffRunning_finishOk _
  · exact busyIffRunning_setPhase hb hp

theorem busyIffRunning_pageComplete (hb : s.regs.busy = true) : BusyIffRunning (pageComplete s) := by
  rcases pageComplete_cases s with h | ⟨-, -, -, ⟨-, h⟩ | ⟨-, h⟩⟩ <;> rw [h]
  · exact busyIffRunning_finishOk _
  · exact busyIffRunning_setPhase hb (by decide)
  · exact busyIffRunning_setPhase hb (by decide)

theorem busyIffRunning_continuePoll (hb : s.regs.busy = true) : BusyIffRunning (continuePoll s) := by
  unfold continuePoll
  split
  · exact busyIffRunning_finishOk s
  · exact busyIffRunning_finishOk s
  · exact busyIffRunning_setPhase hb (by decide)
  · exact busyIffRunning_pageComplete hb
  · exact busyIffRunning_finishOk s

theorem busyIffRunning_pollReceive (b : Byte) (hb : s.regs.busy = true) : BusyIffRunning (pollReceive b s) := by
  have hdec : (decodeStatus b s).regs.busy = true := by simpa using hb
  rcases pollReceive_cases b s with ⟨-, -, h⟩ | ⟨-, -, h⟩ | ⟨e, -, h⟩ | ⟨v, -, h⟩ <;> rw [h]
  · exact busyIffRunning_setPhase hdec (by decide)
  · exact busyIffRunning_raiseError _ _ _
  · exact busyIffRunning_raiseError _ _ _
  · exact busyIffRunning_continuePoll hdec

theorem busyIffRunning_sendFrame {i : Instr} {page : Option Nat} {k : List Byte → State → State}
    (hk : ∀ r, BusyIffRunning (k r (afterFrame i s))) : BusyIffRunning (sendFrame i page k s) := by
  rcases sendFrame_cases i page k s with ⟨-, h⟩ | ⟨r, -, -, h⟩ <;> rw [h]
  · exact busyIffRunning_raiseError _ _ _
  · exact hk r

theorem busyIffRunning_pollAttempt (i : Instr) (hb : s.regs.busy = true) : BusyIffRunning (pollAttempt i s) := by
  unfold pollAttempt
  split
  · exact busyIffRunning_raiseError _ _ s
  · exact busyIffRunning_sendFrame fun _ => busyIffRunning_pollReceive _ hb

/-- An instruction that runs while BUSY is 1 ends the command or leads to a phase other than IDLE. -/
theorem busyIffRunning_exec {i : Instr} (hb : s.regs.busy = true) (h : exec i s = .next t) : BusyIffRunning t := by
  cases i with
  | reset => cases h; exact busyIffRunning_setPhase hb (by decide)
  | identify => cases h; exact busyIffRunning_setPhase hb (by decide)
  | getStatus => cases h; exact busyIffRunning_setPhase hb (by decide)
  | setStatus => cases h; exact busyIffRunning_setPhase hb (by decide)
  | writeEnable => cases h; exact busyIffRunning_setPhase hb (by decide)
  | writeDisable => cases h; exact busyIffRunning_setPhase hb (by decide)
  | poll => cases h; exact busyIffRunning_beginPoll _ hb
  | readPage => cases h; exact busyIffRunning_startPages hb (by decide)
  | programPage => cases h; exact busyIffRunning_startPages hb (by decide)
  | readRange => cases h; exact busyIffRunning_startPages hb (by decide)
  | programRange => cases h; exact busyIffRunning_startPages hb (by decide)
  | eraseBlock =>
    rcases execEraseBlock_cases s with ⟨-, he⟩ | he <;> cases he.symm.trans h
    · exact busyIffRunning_setPhase hb (by decide)
    · exact busyIffRunning_raiseError _ _ s
  | fPageReadToCache p =>
    obtain ⟨-, -, rfl⟩ := execFPageReadToCache_next h
    exact busyIffRunning_sendFrame fun _ => busyIffRunning_beginPoll _ hb
  | fReadFromCache =>
    obtain ⟨-, -, rfl⟩ := execFReadFromCache_next h
    exact busyIffRunning_sendFrame fun _ => busyIffRunning_pageComplete hb
  | fProgramLoad d =>
    obtain ⟨-, -, -, rfl⟩ := execFProgramLoad_next h
    exact busyIffRunning_sendFrame fun _ => busyIffRunning_setPhase hb (by decide)
  | fProgramExecute p =>
    obtain ⟨-, -, rfl⟩ := execFProgramExecute_next h
    exact busyIffRunning_sendFrame fun _ => busyIffRunning_beginPoll _ hb
  | fBlockErase p =>
    obtain ⟨-, -, rfl⟩ := execFBlockErase_next h
    exact busyIffRunning_sendFrame fun _ => busyIffRunning_beginPoll _ hb
  | fGetStatus a =>
    obtain ⟨-, rfl⟩ | ⟨-, rfl⟩ := execFGetStatus_next h
    · exact busyIffRunning_pollAttempt _ hb
    · exact busyIffRunning_sendFrame fun _ => busyIffRunning_finishOk _
  | fSetStatus a v =>
    obtain ⟨-, rfl⟩ := execFSetStatus_next h
    exact busyIffRunning_sendFrame fun _ => busyIffRunning_finishOk _
  | fReset =>
    obtain ⟨-, rfl⟩ := execFReset_next h
    exact busyIffRunning_sendFrame fun _ => busyIffRunning_beginPoll _ hb
  | fWriteEnable =>
    obtain ⟨-, rfl⟩ | ⟨-, rfl⟩ := execFWriteEnable_next h
    · exact busyIffRunning_sendFrame fun _ => busyIffRunning_setPhase hb (by split <;> decide)
    · exact busyIffRunning_sendFrame fun _ => busyIffRunning_finishOk _
  | fWriteDisable =>
    obtain ⟨-, rfl⟩ := execFWriteDisable_next h
    exact busyIffRunning_sendFrame fun _ => busyIffRunning_finishOk _
  | fReadId =>
    obtain ⟨-, rfl⟩ := execFReadId_next h
    exact busyIffRunning_sendFrame fun _ => busyIffRunning_finishOk _

theorem phase_ne_idle_of_phaseFrame {i : Instr} (h : phaseFrame s = some i) : s.seq.phase ≠ .idle := by
  intro hp
  simp [phaseFrame, hp] at h

theorem busyIffRunning_controllerStep (hs : BusyIffRunning s) (h : controllerStep s = .next t) : BusyIffRunning t := by
  rcases controllerStep_next h with ⟨-, rfl⟩ | ⟨hp, i, -, hi⟩ | ⟨-, rfl⟩ | ⟨hp, rfl⟩ | ⟨i, hf, hi⟩
  · exact hs
  · exact busyIffRunning_exec (hs.mpr (by simp [hp])) hi
  · exact busyIffRunning_raiseError _ _ s
  · exact busyIffRunning_setPhase (hs.mpr (by simp [hp])) (by decide)
  · exact busyIffRunning_exec (hs.mpr (phase_ne_idle_of_phaseFrame hf)) hi

/-- A write to a parameter register leaves BUSY and the phase alone. -/
theorem busyIffRunning_writeParam {r : Regs} (hs : BusyIffRunning s) (hr : r.busy = s.regs.busy) :
    BusyIffRunning (writeParam s r) := by
  rcases writeParam_cases s r with ⟨-, h⟩ | ⟨-, h⟩ <;> rw [h]
  · exact hs
  · exact (iff_of_eq (congrArg (· = true) hr)).trans hs

theorem busyIffRunning_writeReg (r : Reg) (v : Word) (hs : BusyIffRunning s) : BusyIffRunning (writeReg r v s) := by
  cases r with
  | cmd =>
    rcases writeCmd_cases v s with ⟨-, h⟩ | ⟨-, h⟩ <;> rw [writeReg, h]
    · exact hs
    · exact iff_of_true rfl (by simp)
  | startPage => exact busyIffRunning_writeParam hs rfl
  | pageCount => exact busyIffRunning_writeParam hs rfl
  | bufAddr => exact busyIffRunning_writeParam hs rfl
  | bufLen => exact busyIffRunning_writeParam hs rfl
  | maxAttempts => exact busyIffRunning_writeParam hs rfl
  | pollDelay => exact busyIffRunning_writeParam hs rfl
  | regArg => exact busyIffRunning_writeParam hs rfl
  | _ => exact hs

theorem busyIffRunning_writeOffset (off : Nat) (v : Word) (hs : BusyIffRunning s) :
    BusyIffRunning (writeOffset off v s) := by
  unfold writeOffset
  split
  · exact busyIffRunning_writeReg _ v hs
  · exact hs

theorem busyIffRunning_nfcReset (s : State) : BusyIffRunning (nfcReset s) :=
  iff_of_false Bool.false_ne_true (· rfl)

theorem busyIffRunning_inputStep {e : Input} (hs : BusyIffRunning s) (h : inputStep e s = .next t) :
    BusyIffRunning t := by
  cases e with
  | nfc => exact busyIffRunning_controllerStep hs h
  | regWrite off width v => obtain rfl := regAccess_next h; exact busyIffRunning_writeOffset off v hs
  | regRead off width => obtain rfl := regAccess_next h; exact hs
  | bufWrite a b => obtain ⟨-, rfl⟩ := bufAccess_next h; exact hs
  | bufRead a => obtain ⟨-, rfl⟩ := bufAccess_next h; exact hs
  | waitDone => cases h; exact hs
  | reset => cases h; exact busyIffRunning_nfcReset s
  | resetInTransceive =>
    cases h
    rcases resetInTransceive_cases s with h | ⟨i, h⟩ <;> rw [h] <;> exact busyIffRunning_nfcReset _

theorem busyIffRunning_step (hs : BusyIffRunning s) (h : step s = .next t) : BusyIffRunning t := by
  obtain ⟨-, ⟨-, hc⟩ | ⟨e, rest, -, he⟩⟩ := step_next h
  · exact busyIffRunning_controllerStep hs hc
  · exact busyIffRunning_inputStep (s := { s with inputs := rest }) hs he

/-- Settles O45: BUSY follows the phase at reset and along every move, and a controller step records at most one
transaction. -/
theorem busyExactlyWhileRunning : Obligations.BusyExactlyWhileRunning := by
  refine ⟨by decide, fun s t hs h => busyIffRunning_step hs h, fun s t h => ?_⟩
  obtain ⟨l, hsent, hlen, -⟩ := controllerStep_txns h
  exact ⟨l, hsent, hlen⟩

end Sys2Proof.Machine
end

section
/-! SUPPORT. The host registers of 10_state.md: the fields of the packed registers bit by bit (R24, R25, R33, R34, R39),
what a host write does to each register while idle and while busy (R43, R45, R46), and what it reads back. -/

namespace Sys2Proof.Machine

variable {s : State}

/-! ### Fields of a packed word -/

/-- The one-bit field at bit `k` of a packed register. -/
theorem getLsbD_packed {n k : Nat} {b : Bool} (hk : k < 32) (h : n / 2 ^ k % 2 = b.toNat) :
    (BitVec.ofNat 32 n).getLsbD k = b := by
  rw [BitVec.getLsbD_ofNat, decide_eq_true hk, Bool.true_and, Nat.testBit_eq_decide_div_mod_eq, h]
  cases b <;> rfl

/-- The bits of a packed register above its highest field are 0. -/
theorem getLsbD_packed_above {n j k : Nat} (hn : n < 2 ^ j) (hk : j ≤ k) : (BitVec.ofNat 32 n).getLsbD k = false := by
  rw [BitVec.getLsbD_ofNat, Nat.testBit_lt_two_pow (hn.trans_le (Nat.pow_le_pow_right (by decide) hk)), Bool.and_false]

/-- The `m`-bit field at bit `k` of a packed register. -/
theorem toNat_extractLsb'_packed {n k m f : Nat} (hn : n < 2 ^ 32) (h : n / 2 ^ k % 2 ^ m = f) :
    ((BitVec.ofNat 32 n).extractLsb' k m).toNat = f := by
  rw [BitVec.extractLsb'_toNat, BitVec.toNat_ofNat, Nat.mod_eq_of_lt hn, Nat.shiftRight_eq_div_pow, h]

theorem sevCode_le (v : Severity) : sevCode v ≤ 2 := by cases v <;> decide

theorem errCodeNumber_le (e : ErrCode) : errCodeNumber e ≤ 9 := by cases e <;> decide

/-- STATUS, field by field (R25). -/
theorem statusWord_fields (s : State) :
    (statusWord s).getLsbD 0 = s.regs.busy ∧ (statusWord s).getLsbD 1 = s.regs.done ∧
    (statusWord s).getLsbD 2 = s.regs.err ∧ (statusWord s).getLsbD 3 = s.regs.ovr ∧
    ((statusWord s).extractLsb' 4 2).toNat = sevCode s.regs.eccMax ∧
    ((statusWord s).extractLsb' 6 2).toNat = sevCode s.regs.lastEcc ∧
    (statusWord s).getLsbD 8 = irq s ∧ ∀ k, 9 ≤ k → (statusWord s).getLsbD k = false := by
  have hbusy := s.regs.busy.toNat_le
  have hdone := s.regs.done.toNat_le
  have herr := s.regs.err.toNat_le
  have hovr := s.regs.ovr.toNat_le
  have hmax := sevCode_le s.regs.eccMax
  have hlast := sevCode_le s.regs.lastEcc
  have hirq := (irq s).toNat_le
  refine ⟨getLsbD_packed (by decide) ?_, getLsbD_packed (by decide) ?_, getLsbD_packed (by decide) ?_,
    getLsbD_packed (by decide) ?_, toNat_extractLsb'_packed ?_ ?_, toNat_extractLsb'_packed ?_ ?_,
    getLsbD_packed (by decide) ?_, fun k hk => getLsbD_packed_above (j := 9) ?_ hk⟩ <;> omega

/-- CTRL, field by field (R24). -/
theorem ctrlWord_fields (s : State) :
    (ctrlWord s).getLsbD 0 = s.regs.irqEn ∧ (ctrlWord s).getLsbD 1 = s.regs.eccCorrFatal ∧
    ∀ k, 2 ≤ k → (ctrlWord s).getLsbD k = false := by
  have hen := s.regs.irqEn.toNat_le
  have hfatal := s.regs.eccCorrFatal.toNat_le
  refine ⟨getLsbD_packed (by decide) ?_, getLsbD_packed (by decide) ?_,
    fun k hk => getLsbD_packed_above (j := 2) ?_ hk⟩ <;> omega

/-- REG_ARG, field by field (R33). -/
theorem regArgWord_fields (s : State) :
    (regArgWord s).extractLsb' 0 8 = s.regs.regAddr ∧ (regArgWord s).extractLsb' 8 8 = s.regs.regValue ∧
    ∀ k, 16 ≤ k → (regArgWord s).getLsbD k = false := by
  have haddr := s.regs.regAddr.isLt
  have hvalue := s.regs.regValue.isLt
  refine ⟨BitVec.eq_of_toNat_eq (toNat_extractLsb'_packed ?_ ?_),
    BitVec.eq_of_toNat_eq (toNat_extractLsb'_packed ?_ ?_), fun k hk => getLsbD_packed_above (j := 16) ?_ hk⟩ <;> omega

/-- RESULT, field by field (R34). -/
theorem resultWord_fields (s : State) :
    ((resultWord s).extractLsb' 0 4).toNat = errCodeNumber s.regs.errCode ∧
    (resultWord s).getLsbD 8 = s.regs.pageValid ∧ (∀ k, 4 ≤ k → k < 8 → (resultWord s).getLsbD k = false) ∧
    ∀ k, 9 ≤ k → (resultWord s).getLsbD k = false := by
  have hcode := errCodeNumber_le s.regs.errCode
  have hvalid := s.regs.pageValid.toNat_le
  refine ⟨toNat_extractLsb'_packed (by omega) (by omega), getLsbD_packed (by decide) (by omega), fun k h4 h8 => ?_,
    fun k hk => getLsbD_packed_above (j := 9) (by omega) hk⟩
  interval_cases k <;> exact getLsbD_packed (b := false) (by decide) (by simp; omega)

/-! ### Writes -/

/-- The parameter registers, which a command reads (R46, R87). -/
def parameterRegs : List Reg := [.startPage, .pageCount, .bufAddr, .bufLen, .maxAttempts, .pollDelay, .regArg]

theorem writeParam_of_busy (r : Regs) (hb : s.regs.busy = true) : writeParam s r = setOvr s := by
  simp [writeParam, hb]

theorem writeParam_of_idle (r : Regs) (hb : s.regs.busy = false) : writeParam s r = { s with regs := r } := by
  simp [writeParam, hb]

/-- While busy, a write to CMD or to a parameter register only sets OVR (R46). -/
theorem writeReg_of_busy {r : Reg} (v : Word) (hb : s.regs.busy = true) (hr : r ∈ Reg.cmd :: parameterRegs) :
    writeReg r v s = setOvr s := by
  simp only [parameterRegs, List.mem_cons, List.not_mem_nil, or_false] at hr
  rcases hr with rfl | rfl | rfl | rfl | rfl | rfl | rfl | rfl
  case inl => exact if_pos hb
  all_goals exact writeParam_of_busy _ hb

/-- While idle, a write to a parameter register leaves what every other register reads. -/
theorem readReg_writeReg_of_ne {q r : Reg} (v : Word) (hb : s.regs.busy = false) (hq : q ∈ parameterRegs)
    (hne : r ≠ q) : readReg (writeReg q v s) r = readReg s r := by
  simp only [parameterRegs, List.mem_cons, List.not_mem_nil, or_false] at hq
  rcases hq with rfl | rfl | rfl | rfl | rfl | rfl | rfl
  all_goals
    rw [writeReg, writeParam_of_idle _ hb]
    cases r
    any_goals rfl
    exact absurd rfl hne

/-- A write to CTRL leaves what every register but CTRL and STATUS reads. -/
theorem readReg_writeCtrl_of_ne {r : Reg} (v : Word) (hctrl : r ≠ .ctrl) (hstatus : r ≠ .status) :
    readReg (writeCtrl v s) r = readReg s r := by
  cases r with
  | ctrl => exact absurd rfl hctrl
  | status => exact absurd rfl hstatus
  | _ => rfl

/-- The registers that the host cannot write (R23). -/
def readOnlyRegs : List Reg :=
  [.result, .failPage, .pagesDone, .pollCount, .txnCount, .statusRaw, .idMfr, .idDev, .eccCorrCount]

theorem writeReg_of_readOnly {r : Reg} (v : Word) (s : State) (hr : r ∈ readOnlyRegs) : writeReg r v s = s := by
  simp only [readOnlyRegs, List.mem_cons, List.not_mem_nil, or_false] at hr
  rcases hr with rfl | rfl | rfl | rfl | rfl | rfl | rfl | rfl | rfl <;> rfl

/-! ### Offsets -/

theorem regAt_regOffset (r : Reg) : regAt (regOffset r) = some r := by cases r <;> rfl

theorem regAt_eq_some {off : Nat} {r : Reg} (h : regAt off = some r) : off = regOffset r := by
  unfold regAt at h
  split at h <;> cases h <;> rfl

/-- The offsets from 0x4C on are reserved (R43). -/
theorem regAt_eq_none {off : Nat} (h : 0x4C ≤ off) : regAt off = none := by
  have hle (r : Reg) : regOffset r ≤ 0x48 := by cases r <;> decide
  cases hr : regAt off with
  | none => rfl
  | some r => exact absurd (regAt_eq_some hr ▸ hle r) (by omega)

theorem readOffset_regOffset (s : State) (r : Reg) : readOffset s (regOffset r) = readReg s r := by
  rw [readOffset, regAt_regOffset]

theorem writeOffset_regOffset (r : Reg) (v : Word) (s : State) : writeOffset (regOffset r) v s = writeReg r v s := by
  rw [writeOffset, regAt_regOffset]

/-- An offset reads the same where the register at it, if there is one, does. -/
theorem readOffset_congr {s t : State} {off : Nat} (h : ∀ r, off = regOffset r → readReg t r = readReg s r) :
    readOffset t off = readOffset s off := by
  unfold readOffset
  split
  next r hr => exact h r (regAt_eq_some hr)
  · rfl

/-- While idle, a write to a parameter register leaves what every other offset reads. -/
theorem readOffset_writeOffset_of_ne {q : Reg} {off : Nat} (v : Word) (hb : s.regs.busy = false)
    (hq : q ∈ parameterRegs) (hne : off ≠ regOffset q) :
    readOffset (writeOffset (regOffset q) v s) off = readOffset s off := by
  rw [writeOffset_regOffset]
  refine readOffset_congr fun r hr => readReg_writeReg_of_ne v hb hq ?_
  rintro rfl
  exact hne hr

/-! ### What is read back -/

/-- The parameter registers that hold all 32 bits (R27, R28, R30, R31, R32). -/
def fullWordRegs : List Reg := [.startPage, .pageCount, .bufLen, .maxAttempts, .pollDelay]

theorem fullWordRegs_subset : fullWordRegs ⊆ parameterRegs := by decide

theorem readReg_writeReg_fullWord {q : Reg} (v : Word) (hb : s.regs.busy = false) (hq : q ∈ fullWordRegs) :
    readReg (writeReg q v s) q = v := by
  simp only [fullWordRegs, List.mem_cons, List.not_mem_nil, or_false] at hq
  rcases hq with rfl | rfl | rfl | rfl | rfl
  all_goals
    rw [writeReg, writeParam_of_idle _ hb]
    rfl

/-- BUF_ADDR reads back modulo 2^BUF_ADDR_BITS (R29). -/
theorem readReg_writeReg_bufAddr (v : Word) (hwf : s.params.wf = true) (hb : s.regs.busy = false) :
    (readReg (writeReg .bufAddr v s) .bufAddr).toNat = v.toNat % 2 ^ s.params.bufAddrBits := by
  have hbits := ((params_wf_iff _).mp hwf).2.1
  have hsize : s.params.bufSize ≤ 2 ^ 32 := Nat.pow_le_pow_right (by decide) hbits
  have hlt : v.toNat % s.params.bufSize < 2 ^ 32 := (Nat.mod_lt _ (bufSize_pos _)).trans_le hsize
  rw [writeReg, writeParam_of_idle _ hb]
  exact (BitVec.toNat_ofNat _ _).trans (Nat.mod_eq_of_lt hlt)

/-- REG_ARG reads back its two fields (R33). -/
theorem readReg_writeReg_regArg (v : Word) (hb : s.regs.busy = false) :
    (readReg (writeReg .regArg v s) .regArg).toNat = v.toNat % 2 ^ 16 := by
  rw [writeReg, writeParam_of_idle _ hb]
  simp only [readReg, regArgWord, BitVec.toNat_ofNat, BitVec.extractLsb'_toNat, Nat.shiftRight_eq_div_pow]
  omega

/-- CTRL reads back its two bits (R24). -/
theorem readReg_writeCtrl_ctrl (v : Word) : (readReg (writeCtrl v s) .ctrl).toNat = v.toNat % 4 := by
  have hbit (k : Nat) : (v.getLsbD k).toNat = v.toNat / 2 ^ k % 2 := Nat.toNat_testBit _ _
  simp only [readReg, ctrlWord, writeCtrl_regs, BitVec.toNat_ofNat, hbit]
  omega

/-! ### Equal defined bits -/

theorem getLsbD_eq_of_extractLsb'_eq {v w : Word} {m k : Nat} (h : v.extractLsb' 0 m = w.extractLsb' 0 m)
    (hk : k < m) : v.getLsbD k = w.getLsbD k := by
  have hbit := congrArg (·.getLsbD k) h
  simpa [hk] using hbit

theorem extractLsb'_eq_of_extractLsb'_eq {v w : Word} {m k l : Nat} (h : v.extractLsb' 0 m = w.extractLsb' 0 m)
    (hkl : k + l ≤ m) : v.extractLsb' k l = w.extractLsb' k l := by
  rw [← BitVec.extractLsb'_extractLsb'_of_le hkl, h, BitVec.extractLsb'_extractLsb'_of_le hkl]

/-- Bits 31 to 2 of a write to CTRL are ignored (R24, R43). -/
theorem writeCtrl_congr {v w : Word} (h : v.extractLsb' 0 2 = w.extractLsb' 0 2) (s : State) :
    writeCtrl v s = writeCtrl w s := by
  rw [writeCtrl, writeCtrl, getLsbD_eq_of_extractLsb'_eq h (k := 0) (by decide),
    getLsbD_eq_of_extractLsb'_eq h (k := 1) (by decide)]

/-- A write to STATUS reads bits 1 and 3 alone (R25, R43). -/
theorem writeStatus_congr {v w : Word} (h1 : v.getLsbD 1 = w.getLsbD 1) (h3 : v.getLsbD 3 = w.getLsbD 3) (s : State) :
    writeStatus v s = writeStatus w s := by
  rw [writeStatus, writeStatus, h1, h3]

/-- Bits 31 to 16 of a write to REG_ARG are ignored (R33, R43). -/
theorem writeRegArg_congr {v w : Word} (h : v.extractLsb' 0 16 = w.extractLsb' 0 16) (s : State) :
    writeReg .regArg v s = writeReg .regArg w s := by
  rw [writeReg, writeReg, extractLsb'_eq_of_extractLsb'_eq h (k := 0) (l := 8) (by decide),
    extractLsb'_eq_of_extractLsb'_eq h (k := 8) (l := 8) (by decide)]

/-! ### The obligations -/

/-- Settles O34: each of the eight offsets is CMD's or a parameter register's. -/
theorem busyWriteOnlySetsOvr : Obligations.BusyWriteOnlySetsOvr := by
  intro s off v rest hwf hb hoff hin
  obtain ⟨r, hr, rfl⟩ : ∃ r ∈ Reg.cmd :: parameterRegs, regOffset r = off := List.mem_map.mp hoff
  have hword : regOffset r % 4 = 0 ∧ regOffset r < 256 := by cases r <;> decide
  have hwrite : writeReg r v { s with inputs := rest } = setOvr { s with inputs := rest } := writeReg_of_busy v hb hr
  rw [step_regWrite hwf hword.1 hword.2 hin, writeOffset_regOffset, hwrite]
  rfl

/-- Settles O33: an idle write to a parameter register changes that register alone, and CTRL's two bits are read in CTRL
and in STATUS's interrupt bit only. -/
theorem writtenRegistersReadBack : Obligations.WrittenRegistersReadBack := by
  intro s v hwf
  refine ⟨fun hb off hoff => ?_,
    fun hb => ⟨readReg_writeReg_bufAddr v hwf hb, readReg_writeReg_regArg v hb, fun off' hne => ?_, fun off' hne => ?_⟩,
    readReg_writeCtrl_ctrl v, fun off' hctrl hstatus => ?_, fun _ => rfl⟩
  · obtain ⟨q, hq, rfl⟩ : ∃ q ∈ fullWordRegs, regOffset q = off := List.mem_map.mp hoff
    refine ⟨?_, fun off' hne => readOffset_writeOffset_of_ne v hb (fullWordRegs_subset hq) hne⟩
    rw [writeOffset_regOffset, readOffset_regOffset, readReg_writeReg_fullWord v hb hq]
  · exact readOffset_writeOffset_of_ne (q := .bufAddr) v hb (by decide) hne
  · exact readOffset_writeOffset_of_ne (q := .regArg) v hb (by decide) hne
  · refine readOffset_congr fun r hr => readReg_writeCtrl_of_ne v ?_ ?_ <;> rintro rfl
    · exact hctrl hr
    · exact hstatus hr

/-- Settles O31: reserved offsets hold no register, the packed registers end at their highest field, and a write reads
the defined bits only. -/
theorem reservedAndReadOnlyIgnoreWrites : Obligations.ReservedAndReadOnlyIgnoreWrites := by
  refine ⟨fun s off v _ hlo _ => ?_, fun s off v hoff => ?_, fun s k => ?_, fun s v w => ?_, fun s v => ⟨rfl, ?_⟩⟩
  · rw [readOffset, writeOffset, regAt_eq_none hlo]
    exact ⟨rfl, rfl⟩
  · obtain ⟨r, hr, rfl⟩ : ∃ r ∈ readOnlyRegs, regOffset r = off := List.mem_map.mp hoff
    rw [writeOffset_regOffset, writeReg_of_readOnly v s hr]
  · obtain ⟨-, -, hctrl⟩ := ctrlWord_fields s
    obtain ⟨-, -, -, -, -, -, -, hstatus⟩ := statusWord_fields s
    obtain ⟨-, -, harg⟩ := regArgWord_fields s
    obtain ⟨-, -, hmid, hres⟩ := resultWord_fields s
    refine ⟨hctrl k, hstatus k, harg k, hres k, hmid k, fun hk => ?_⟩
    exact (BitVec.getLsbD_setWidth _ _ _).trans (by simp [hk])
  · exact ⟨fun h => writeCtrl_congr h s, fun h1 h3 => writeStatus_congr h1 h3 s, fun h => writeRegArg_congr h s⟩
  · exact fun h => (Bool.and_eq_true_iff.mp h).1

/-- Settles O30: the packed registers field by field, and the write of `v` to STATUS, which is `writeStatus`. -/
theorem packedRegisters : Obligations.PackedRegisters := by
  refine ⟨fun s => ?_, fun s v rest hwf hin => ?_⟩
  · obtain ⟨hbusy, hdone, herr, hovr, hmax, hlast, hirq, -⟩ := statusWord_fields s
    obtain ⟨hen, hfatal, -⟩ := ctrlWord_fields s
    obtain ⟨haddr, hvalue, -⟩ := regArgWord_fields s
    obtain ⟨hcode, hvalid, -, -⟩ := resultWord_fields s
    have hraw : (s.regs.statusRaw.setWidth 32).extractLsb' 0 8 = s.regs.statusRaw := by
      rw [BitVec.extractLsb'_setWidth_of_le (by decide), BitVec.extractLsb'_eq_self]
    exact ⟨⟨hbusy, hdone, herr, hovr, hmax, hlast, hirq⟩, ⟨hen, hfatal⟩, ⟨haddr, hvalue⟩, ⟨hcode, hvalid⟩, hraw⟩
  · refine ⟨_, step_regWrite hwf (by decide) (by decide) hin, rfl, ?_, ?_⟩
    · show (s.regs.done && !v.getLsbD 1) = true ↔ _
      simp
    · show (s.regs.ovr && !v.getLsbD 3) = true ↔ _
      simp

end Sys2Proof.Machine
end

section
/-! SUPPORT. The frames of 20_memory.md, forwards: what a phase's step is once the channel's answer is known (R80, R81,
R192, R197), and the accesses of the host to the buffer (R70, R74). -/

namespace Sys2Proof.Machine

variable {s t : State}

/-! ### What a Transceive returns (R80, R81) -/

/-- A prepared answer is used up by the frame it answers, and is the response where it has the requested length. -/
theorem frameAnswer_of_prepared {i : Instr} {a : Answer} {rest : List Answer} (h : s.chan.dev = .oracle (a :: rest)) :
    frameAnswer i s = checkedResponse (respLen s.params.profile i) a ∧ (afterFrame i s).chan.dev = .oracle rest := by
  rw [afterFrame_dev, frameAnswer, deviceReply, h]
  exact ⟨rfl, rfl⟩

/-- Settles O13: an answer is checked for its length, and the Transceive is recorded and counted. -/
theorem transceiveChecksTheAnswer : Obligations.TransceiveChecksTheAnswer := by
  intro i s
  refine ⟨fun r rest h hlen => ?_, fun r rest h hlen => ?_, fun rest h => ?_, fun r => frameAnswer_length,
    rfl, rfl, rfl, rfl, rfl⟩ <;> obtain ⟨hans, hdev⟩ := frameAnswer_of_prepared (i := i) h <;> refine ⟨hans.trans ?_, hdev⟩
  · exact if_pos hlen
  · exact if_neg hlen
  · rfl

/-! ### The slot of the current page (R73, R192, R197) -/

theorem slotFits_iff (s : State) : slotFits s = true ↔
    s.regs.startPage.toNat ≤ s.seq.cur ∧ slotAddr s + s.params.profile.pageSizeBytes ≤ s.params.bufSize := by
  simp [slotFits]

theorem cu_eq (P : Profile) : P.cu = P.pageSizeBytes + P.spareBytes := rfl

/-- A response of a whole cache-transfer unit holds a whole page (R12). -/
theorem length_take_page {P : Profile} {r : List Byte} (h : r.length = P.cu) :
    (r.take P.pageSizeBytes).length = P.pageSizeBytes := by
  rw [List.length_take, h, cu_eq]
  omega

@[simp] theorem pageComplete_mem (s : State) : (pageComplete s).mem = s.mem := by
  rcases pageComplete_cases s with h | ⟨-, -, -, ⟨-, h⟩ | ⟨-, h⟩⟩ <;> rw [h] <;> rfl

/-- The unit that WR_LOAD sends, where no host raced for the slot (R197). -/
theorem loadUnit_of_no_race (h : s.race = []) : loadUnit s = slotUnit s (s.seq.cur - s.regs.startPage.toNat) := by
  rw [loadUnit, slotData, h, settleBytes_nil]
  rfl

/-! ### RD_CACHE and WR_LOAD -/

theorem exec_fReadFromCache (hp : s.seq.phase = .rdCache) (hfit : slotFits s = true) :
    exec .fReadFromCache s
      = .next (sendFrame .fReadFromCache (some s.seq.cur) (fun r u => pageComplete (storePage r u)) s) := by
  simp [exec, execFReadFromCache, hp, hfit]

theorem exec_fProgramLoad {d : List Byte} (hp : s.seq.phase = .wrLoad) (hfit : slotFits s = true)
    (hlen : d.length = s.params.profile.cu) :
    exec (.fProgramLoad d) s = .next (sendFrame (.fProgramLoad d) (some s.seq.cur) (fun _ u => setPhase .wrExec u)
      (countDraw (setScratch d s))) := by
  have hwf : (Instr.fProgramLoad d).wf s.params.profile = true := decide_eq_true hlen
  simp [exec, execFProgramLoad, hp, hfit, frameNext_ok _ hwf]

/-- The store of a page without a race: byte `k` of the response stands in byte `k` of the slot. -/
theorem memByte_storePage {r : List Byte} {k : Nat} (hmem : memWf s.mem = true) (hrace : s.race = [])
    (hlen : r.length = s.params.profile.cu) (hk : k < s.params.profile.pageSizeBytes) :
    r[k]? = some (memByte (storePage r s).mem (slotAddr s + k)) := by
  have hr : k < r.length := by rw [hlen, cu_eq]; omega
  rw [storePage_mem, hrace, settleBytes_nil, List.getElem?_eq_getElem hr,
    memByte_memWrite_inside _ _ hmem (by rw [List.getElem?_take_of_lt hk]; exact List.getElem?_eq_getElem hr)]

/-- A page's store leaves every byte outside the slot, raced for or not. -/
theorem memKeptOutside_storePage {r : List Byte} (hlen : r.length = s.params.profile.cu) :
    MemKeptOutside (slotAddr s) s.params.profile.pageSizeBytes s (storePage r s) := fun a ha =>
  memByte_memWrite_outside _ _ (by rwa [settleBytes_length, length_take_page hlen])

/-- Settles O15: RD_CACHE's step is the frame's, and what follows its answer is the store and the page's end. -/
theorem readCachePhase : Obligations.ReadCachePhase := by
  intro s hp hrace hmem hstart hslot
  have hexec := exec_fReadFromCache hp ((slotFits_iff s).mpr ⟨hstart, hslot⟩)
  refine ⟨controllerStep_frame (by simp [phaseFrame, hp]), fun hans => ?_, fun r hans => ?_⟩
  · rw [hexec, sendFrame_error _ _ hans]
  · have hlen : r.length = s.params.profile.cu := frameAnswer_length hans
    rw [sendFrame_ok _ _ hans] at hexec
    refine ⟨_, _, hexec, rfl, rfl, rfl, fun k hk => ?_, fun a ha => ?_⟩ <;> rw [pageComplete_mem]
    · exact memByte_storePage (s := afterFrame _ s) hmem hrace hlen hk
    · exact memKeptOutside_storePage (s := afterFrame _ s) hlen a ha

/-- Settles O16: WR_LOAD's step is the frame's, and an answer of any kind leaves memory alone. -/
theorem loadPhase : Obligations.LoadPhase := by
  intro s d hp hlen hstart hcur hslot
  have hexec := exec_fProgramLoad hp ((slotFits_iff s).mpr ⟨hstart, hslot⟩) hlen
  refine ⟨fun hrace => ?_, controllerStep_frame, fun hans => ?_, fun r hans => ?_⟩
  · simp [phaseFrame, hp, loadUnit_of_no_race hrace]
  · rw [sendFrame_error (s := countDraw (setScratch d s)) _ _ hans] at hexec
    refine ⟨_, hexec, ⟨rfl, rfl, rfl, rfl, rfl, rfl, ?_⟩, rfl, rfl, rfl⟩
    exact Nat.mod_eq_of_lt hcur
  · rw [sendFrame_ok (s := countDraw (setScratch d s)) _ _ hans] at hexec
    exact ⟨_, hexec, rfl, rfl, rfl, rfl⟩

/-! ### The reads in SINGLE (R170, R262) -/

theorem exec_fGetStatus_single (a : Byte) (hp : s.seq.phase = .single) :
    exec (.fGetStatus a) s
      = .next (sendFrame (.fGetStatus a) none (fun r u => finishOk (setStatusRaw (r.headD 0) u)) s) := by
  simp [exec, execFGetStatus, hp]

theorem exec_fReadId (hp : s.seq.phase = .single) :
    exec .fReadId s = .next (sendFrame .fReadId none (fun r u => finishOk (setIds r u)) s) := by
  simp [exec, execFReadId, hp]

/-- A big-endian value fits in as many bytes as it is read from (R9). -/
theorem beValue_lt (bs : List Byte) : beValue bs < 2 ^ (8 * bs.length) := by
  induction bs using List.reverseRecOn with
  | nil => decide
  | append_singleton bs b ih =>
    rw [beValue_append, List.length_append, List.length_singleton, Nat.mul_add, Nat.pow_add]
    have := b.isLt
    omega

/-- An id of at most four bytes fits its register (R41, R124). -/
theorem toNat_beValue {bs : List Byte} (h : bs.length ≤ 4) : (BitVec.ofNat 32 (beValue bs)).toNat = beValue bs := by
  rw [BitVec.toNat_ofNat]
  refine Nat.mod_eq_of_lt ((beValue_lt bs).trans_le (Nat.pow_le_pow_right (by decide) ?_))
  omega

theorem endedOk_finishOk (s : State) : EndedOk (finishOk s) := by constructor <;> rfl

/-- Settles O18: each read ends the command in the step of its frame, with the response in its registers. -/
theorem singleReadPhases : Obligations.SingleReadPhases := by
  intro s hp hwf
  obtain ⟨-, -, -, -, -, -, -, -, -, -, -, -, -, hmfr, -, hdev⟩ :=
    (profile_wf_iff _).mp ((params_wf_iff _).mp hwf).2.2
  refine ⟨fun hw => ?_, fun a hans => ?_, fun a b hans => ?_, fun hw => ?_, fun hans => ⟨?_, rfl, rfl⟩,
    fun m d hans hm => ?_⟩
  · exact controllerStep_frame (by simp [phaseFrame, hp, singleFrame, hw, cmdCode])
  · rw [exec_fGetStatus_single a hp, sendFrame_error _ _ hans]
  · have hexec := exec_fGetStatus_single a hp
    rw [sendFrame_ok _ _ hans] at hexec
    exact ⟨_, hexec, endedOk_finishOk _, rfl, rfl, rfl, rfl, rfl, rfl, by constructor <;> rfl,
      by constructor <;> rfl, rfl⟩
  · exact controllerStep_frame (by simp [phaseFrame, hp, singleFrame, hw, cmdCode])
  · rw [exec_fReadId hp, sendFrame_error _ _ hans]
  · have hexec := exec_fReadId hp
    rw [sendFrame_ok _ _ hans] at hexec
    have hlen : (m ++ d).length = s.params.profile.mfrIdBytes + s.params.profile.devIdBytes := frameAnswer_length hans
    have hd : d.length = s.params.profile.devIdBytes := by rw [List.length_append] at hlen; omega
    refine ⟨_, hexec, endedOk_finishOk _, ?_, ?_, rfl⟩
    · rw [finishOk_regs, setIds_regs, afterFrame_params, ← hm, List.take_left]
      exact toNat_beValue (hm ▸ hmfr)
    · rw [finishOk_regs, setIds_regs, afterFrame_params, ← hm, List.drop_left, ← hd, List.take_length]
      exact toNat_beValue (hd ▸ hdev)

/-! ### The host's accesses (R70, R74, R350) -/

/-- Settles O36: the three checks of a host access, each failing. -/
theorem illegalAccessesStop : Obligations.IllegalAccessesStop := by
  intro s rest hwf
  have hword {off width : Nat} (t : State) (h : width ≠ 4 ∨ off % 4 ≠ 0) :
      regAccess off width t = .refused .registerAccessNotWord := if_neg (by omega)
  have hwindow {off : Nat} (t : State) (halign : off % 4 = 0) (h : 256 ≤ off) :
      regAccess off 4 t = .fault .registerOutsideWindow :=
    (if_pos ⟨rfl, halign⟩).trans (if_neg (by omega))
  have hbuf {a : Nat} (u t : State) (hu : u.params = s.params) (h : 2 ^ s.params.bufAddrBits ≤ a) :
      bufAccess a u t = .fault .bufferOutOfRange := if_neg (by rw [hu]; exact Nat.not_lt.mpr h)
  refine ⟨fun off width v h hin => ?_, fun off width h hin => ?_, fun off v halign h hin => ?_,
    fun off halign h hin => ?_, fun a b h hin => ?_, fun a h hin => ?_⟩ <;> rw [step_of_input hwf hin]
  · exact hword _ h
  · exact hword _ h
  · exact hwindow _ halign h
  · exact hwindow _ halign h
  · exact hbuf _ _ rfl h
  · exact hbuf _ _ rfl h

theorem bufAccess_inside {a : Nat} (s t : State) (h : a < s.params.bufSize) : bufAccess a s t = .next t := if_pos h

theorem readRaces_of_idle (a : Nat) (h : s.regs.busy = false) : readRaces s a = false := by simp [readRaces, h]

theorem raceAfterWrite_of_idle (a : Nat) (b : Byte) (h : s.regs.busy = false) : raceAfterWrite s a b = s.race := by
  simp [raceAfterWrite, writeRace, h]

theorem racedAfterRead_of_idle (a : Nat) (h : s.regs.busy = false) : racedAfterRead s a = s.racedReads := by
  simp [racedAfterRead, readRaces_of_idle a h]

theorem readData_hostBufRead_of_idle (a : Nat) (h : s.regs.busy = false) :
    (hostBufRead a s).readData = some ((memByte s.mem a).setWidth 32) := by
  simp [readRaces_of_idle a h]

theorem run_succ {k : Nat} (h : step s = .next t) : Sys2Proof.core.run (k + 1) s = Sys2Proof.core.run k t := by
  have hcore : Sys2Proof.core.step s = .next t := h
  simp only [Host.Core.run, hcore]

/-- Settles O37: an idle NFC races with no access, so the write and the read are those of plain memory. -/
theorem hostBufferAccess : Obligations.HostBufferAccess := by
  intro s a b rest hwf hmem hb ha hin
  have hwrite : step s = .next (hostBufWrite a b { s with inputs := .bufRead a :: rest }) :=
    (step_of_input hwf hin).trans (bufAccess_inside _ _ ha)
  have hread := (step_of_input (s := hostBufWrite a b { s with inputs := .bufRead a :: rest }) hwf rfl).trans
    (bufAccess_inside _ _ ha)
  have hsame := memByte_memPut_same s.mem a b hmem
  refine ⟨_, (run_succ hwrite).trans (run_succ hread), ?_, hsame, fun x hx => memByte_memPut_other _ _ hx,
    memWf_memPut _ _ _ hmem, rfl, rfl, rfl, raceAfterWrite_of_idle a b hb, racedAfterRead_of_idle a hb, rfl⟩
  rw [readData_hostBufRead_of_idle a (by exact hb)]
  exact congrArg (fun v : Byte => some (v.setWidth 32)) hsame

end Sys2Proof.Machine
end

section
/-! SUPPORT. What the NFC stores (R78, R84, R193), and that it never stops from the invariant (R72, R111, R241): in every
phase the slot exists, the frame has an encoding, and the word names a command. -/

namespace Sys2Proof.Machine

variable {s t : State}

/-! ### Only a completed read stores -/

/-- A page's end ends the command, or goes on in a phase other than IDLE (R234). -/
theorem pageComplete_ends_or_goes_on (s : State) : pageComplete s = finishOk (countPage s) ∨
    ∃ ph, ph ≠ .idle ∧ pageComplete s = setPhase ph (countPage s) := by
  rcases pageComplete_cases s with h | ⟨-, -, -, ⟨-, h⟩ | ⟨-, h⟩⟩
  · exact .inl h
  · exact .inr ⟨_, by decide, h⟩
  · exact .inr ⟨_, by decide, h⟩

@[simp] theorem pageComplete_pagesDone (s : State) : (pageComplete s).regs.pagesDone = s.regs.pagesDone + 1 := by
  rcases pageComplete_ends_or_goes_on s with h | ⟨ph, -, h⟩ <;> rw [h] <;> rfl

@[simp] theorem startPages_mem (count : Nat) (first : Phase) (s : State) : (startPages count first s).mem = s.mem := by
  rcases startPages_cases count first s with ⟨-, h⟩ | ⟨-, -, h⟩ | ⟨-, -, h⟩ <;> rw [h] <;> rfl

@[simp] theorem continuePoll_mem (s : State) : (continuePoll s).mem = s.mem := by
  unfold continuePoll
  split
  case h_4 => exact pageComplete_mem s
  all_goals rfl

@[simp] theorem pollReceive_mem (b : Byte) (s : State) : (pollReceive b s).mem = s.mem := by
  rcases pollReceive_cases b s with ⟨-, -, h⟩ | ⟨-, -, h⟩ | ⟨e, -, h⟩ | ⟨v, -, h⟩ <;> rw [h]
  case inr.inr.inr => exact continuePoll_mem _
  all_goals rfl

theorem mem_sendFrame {i : Instr} {page : Option Nat} {k : List Byte → State → State}
    (hk : ∀ r u, (k r u).mem = u.mem) : (sendFrame i page k s).mem = s.mem :=
  sendFrame_keeps State.mem rfl (fun _ => rfl) hk

@[simp] theorem pollAttempt_mem (i : Instr) (s : State) : (pollAttempt i s).mem = s.mem := by
  unfold pollAttempt
  split
  · rfl
  · exact mem_sendFrame fun _ _ => pollReceive_mem _ _

/-- Every instruction but F_READ_FROM_CACHE leaves buffer memory alone (R78, R84). -/
theorem mem_exec {i : Instr} (h : exec i s = .next t) (hi : i ≠ .fReadFromCache) : t.mem = s.mem := by
  cases i with
  | reset => cases h; rfl
  | identify => cases h; rfl
  | getStatus => cases h; rfl
  | setStatus => cases h; rfl
  | writeEnable => cases h; rfl
  | writeDisable => cases h; rfl
  | poll => cases h; rfl
  | readPage => cases h; exact startPages_mem _ _ s
  | programPage => cases h; exact startPages_mem _ _ s
  | readRange => cases h; exact startPages_mem _ _ s
  | programRange => cases h; exact startPages_mem _ _ s
  | eraseBlock => rcases execEraseBlock_cases s with ⟨-, he⟩ | he <;> cases he.symm.trans h <;> rfl
  | fPageReadToCache p => obtain ⟨-, -, rfl⟩ := execFPageReadToCache_next h; exact mem_sendFrame fun _ _ => rfl
  | fReadFromCache => exact absurd rfl hi
  | fProgramLoad d =>
    obtain ⟨-, -, -, rfl⟩ := execFProgramLoad_next h
    exact mem_sendFrame (s := countDraw (setScratch d s)) fun _ _ => rfl
  | fProgramExecute p => obtain ⟨-, -, rfl⟩ := execFProgramExecute_next h; exact mem_sendFrame fun _ _ => rfl
  | fBlockErase p => obtain ⟨-, -, rfl⟩ := execFBlockErase_next h; exact mem_sendFrame fun _ _ => rfl
  | fGetStatus a =>
    obtain ⟨-, rfl⟩ | ⟨-, rfl⟩ := execFGetStatus_next h
    · exact pollAttempt_mem _ s
    · exact mem_sendFrame fun _ _ => rfl
  | fSetStatus a v => obtain ⟨-, rfl⟩ := execFSetStatus_next h; exact mem_sendFrame fun _ _ => rfl
  | fReset => obtain ⟨-, rfl⟩ := execFReset_next h; exact mem_sendFrame fun _ _ => rfl
  | fWriteEnable =>
    obtain ⟨-, rfl⟩ | ⟨-, rfl⟩ := execFWriteEnable_next h <;> exact mem_sendFrame fun _ _ => rfl
  | fWriteDisable => obtain ⟨-, rfl⟩ := execFWriteDisable_next h; exact mem_sendFrame fun _ _ => rfl
  | fReadId => obtain ⟨-, rfl⟩ := execFReadId_next h; exact mem_sendFrame fun _ _ => rfl

/-- RD_CACHE's step raises CHANNEL_ERROR, or stores the response in the slot and ends the page (R192). -/
theorem exec_fReadFromCache_cases (h : exec .fReadFromCache s = .next t) : s.seq.phase = .rdCache ∧
    (t = raiseError .channelError (some s.seq.cur) (afterFrame .fReadFromCache s) ∨
     ∃ r, r.length = s.params.profile.cu ∧ t = pageComplete (storePage r (afterFrame .fReadFromCache s))) := by
  obtain ⟨hp, -, rfl⟩ := execFReadFromCache_next h
  refine ⟨hp, ?_⟩
  rcases sendFrame_cases .fReadFromCache (some s.seq.cur) (fun r u => pageComplete (storePage r u)) s with
    ⟨-, hs⟩ | ⟨r, -, hlen, hs⟩
  · exact .inl hs
  · exact .inr ⟨r, hlen, hs⟩

/-- Settles O24: an error changes the ending registers alone, and a response changes its slot, scratch and the page's
counts. -/
theorem frameOfReadFromCache : Obligations.FrameOfReadFromCache := by
  intro s t h
  refine ⟨hostSideKept_exec h, ?_⟩
  obtain ⟨-, rfl | ⟨r, hlen, ht⟩⟩ := exec_fReadFromCache_cases h
  · exact ⟨by constructor <;> rfl, by constructor <;> rfl, rfl, rfl, fun _ _ => rfl,
      fun _ _ => ⟨fun _ => rfl, rfl, rfl, rfl, rfl⟩, fun hp => absurd rfl hp⟩
  · have hout : MemKeptOutside (slotAddr s) s.params.profile.pageSizeBytes s t := by
      intro a ha
      rw [ht, pageComplete_mem]
      exact memKeptOutside_storePage (s := afterFrame _ s) hlen a ha
    rcases pageComplete_ends_or_goes_on (storePage r (afterFrame .fReadFromCache s)) with he | ⟨ph, hph, he⟩ <;>
      obtain rfl := ht.trans he
    · exact ⟨by constructor <;> rfl, by constructor <;> rfl, rfl, rfl, hout, fun hcode => absurd rfl hcode,
        fun hp => absurd rfl hp⟩
    · exact ⟨by constructor <;> rfl, by constructor <;> rfl, rfl, rfl, hout, fun _ hidle => absurd hidle hph,
        fun _ => by constructor <;> rfl⟩

/-- An instruction that changes memory is RD_CACHE's frame with its response. -/
theorem exec_stores {i : Instr} (h : exec i s = .next t) (hmem : t.mem ≠ s.mem) :
    s.seq.phase = .rdCache ∧ t.regs.pagesDone = s.regs.pagesDone + 1 ∧
      MemKeptOutside (slotAddr s) s.params.profile.pageSizeBytes s t := by
  have hi : i = .fReadFromCache := by_contra fun hi => hmem (mem_exec h hi)
  subst hi
  obtain ⟨-, -, -, -, -, hout, -⟩ := frameOfReadFromCache s t h
  obtain ⟨hp, rfl | ⟨r, -, rfl⟩⟩ := exec_fReadFromCache_cases h
  · exact absurd rfl hmem
  · exact ⟨hp, pageComplete_pagesDone _, hout⟩

/-- Settles O47: of all that a controller step can be, only RD_CACHE's frame with its response changes memory. -/
theorem onlyACompletedReadStores : Obligations.OnlyACompletedReadStores := by
  intro s t h ⟨a, ha⟩
  have hmem : t.mem ≠ s.mem := fun he => ha (by rw [he])
  rcases controllerStep_next h with ⟨-, rfl⟩ | ⟨-, i, -, hi⟩ | ⟨-, rfl⟩ | ⟨-, rfl⟩ | ⟨i, -, hi⟩
  · exact absurd rfl hmem
  · exact exec_stores hi hmem
  · exact absurd rfl hmem
  · exact absurd rfl hmem
  · exact exec_stores hi hmem

/-! ### The other frames forwards -/

theorem exec_fPageReadToCache {p : Nat} (hp : s.seq.phase = .rdSelect) (hrow : rowFits s.params.profile p = true) :
    exec (.fPageReadToCache p) s
      = .next (sendFrame (.fPageReadToCache p) (some s.seq.cur) (fun _ u => beginPoll .read u) s) := by
  have hwf : (Instr.fPageReadToCache p).wf s.params.profile = true := hrow
  simp [exec, execFPageReadToCache, hp, frameNext_ok _ hwf]

theorem exec_fProgramExecute {p : Nat} (hp : s.seq.phase = .wrExec) (hrow : rowFits s.params.profile p = true) :
    exec (.fProgramExecute p) s
      = .next (sendFrame (.fProgramExecute p) (some s.seq.cur) (fun _ u => beginPoll .prog u) s) := by
  have hwf : (Instr.fProgramExecute p).wf s.params.profile = true := hrow
  simp [exec, execFProgramExecute, hp, frameNext_ok _ hwf]

theorem exec_fBlockErase {p : Nat} (hp : s.seq.phase = .erErase) (hrow : rowFits s.params.profile p = true) :
    exec (.fBlockErase p) s
      = .next (sendFrame (.fBlockErase p) (some s.seq.cur) (fun _ u => beginPoll .erase u) s) := by
  have hwf : (Instr.fBlockErase p).wf s.params.profile = true := hrow
  simp [exec, execFBlockErase, hp, frameNext_ok _ hwf]

theorem exec_fGetStatus_poll (a : Byte) (hp : s.seq.phase = .pollRead) :
    exec (.fGetStatus a) s = .next (pollAttempt (.fGetStatus a) s) := by
  simp [exec, execFGetStatus, hp]

theorem exec_fWriteEnable_page (hp : s.seq.phase = .wrEnable) :
    exec .fWriteEnable s = .next (sendFrame .fWriteEnable (some s.seq.cur)
      (fun _ u => setPhase (if cmdCode u.seq.word = 0x12 then .erErase else .wrLoad) u) s) := by
  simp [exec, execFWriteEnable, hp]

/-! ### No step stops -/

/-- The slot of the page that the command is at lies in the address space (R72, R73, R230, R241). -/
theorem OnPage.slotFits (h : OnPage s) : slotFits s = true := by
  obtain ⟨-, -, hbuf⟩ := (rangeOk_iff _ _ _).mp h.in_range
  have hcur := h.cur_eq
  refine (slotFits_iff s).mpr ⟨by omega, ?_⟩
  have hslot := Nat.mul_le_mul_right s.params.profile.pageSizeBytes (Nat.succ_le_of_lt h.more)
  rw [Nat.succ_mul] at hslot
  have hdone : s.seq.cur - s.regs.startPage.toNat = s.regs.pagesDone.toNat := by omega
  rw [slotAddr, hdone]
  omega

/-- The page index of a page of the device fits the row address (R120). -/
theorem OnPage.rowFits (h : OnPage s) (hwf : s.params.wf = true) : rowFits s.params.profile s.seq.cur = true :=
  (page_fits hwf h.cur_lt).1

/-- A one-frame command's frame exists and goes on in SINGLE, whatever the channel answers (R269). -/
theorem exec_singleFrame (hp : s.seq.phase = .single)
    (hw : s.seq.word = 0x02 ∨ s.seq.word = 0x03 ∨ s.seq.word = 0x04 ∨ s.seq.word = 0x05 ∨ s.seq.word = 0x06) :
    ∃ i t, singleFrame s = some i ∧ exec i s = .next t := by
  unfold singleFrame
  rcases hw with hw | hw | hw | hw | hw <;> rw [hw]
  · exact ⟨_, _, rfl, exec_fReadId hp⟩
  · exact ⟨_, _, rfl, exec_fGetStatus_single _ hp⟩
  · exact ⟨_, _, rfl, by rw [exec, execFSetStatus, hp]⟩
  · exact ⟨_, _, rfl, by rw [exec, execFWriteEnable, hp]⟩
  · exact ⟨_, _, rfl, by rw [exec, execFWriteDisable, hp]⟩

/-- A command's START step goes on from every state. -/
theorem exec_command_goes_on {i : Instr} {w : Word} (hdec : decodeCommand w = .ok i) (s : State) :
    ∃ t, exec i s = .next t := by
  obtain ⟨c, hc, -⟩ := decodeCommand_ok hdec
  cases i <;> cases hc <;> exact ⟨_, rfl⟩

theorem controllerStep_goes_on (hi : Inv s) : ∃ t, controllerStep s = .next t := by
  have hok := hi.phase_ok
  unfold PhaseOk at hok
  have hframe {i : Instr} {t : State} (hf : phaseFrame s = some i) (he : exec i s = .next t) :
      ∃ t, controllerStep s = .next t := ⟨t, (controllerStep_frame hf).trans he⟩
  cases hp : s.seq.phase with
  | idle => exact ⟨s, by simp [controllerStep, hp]⟩
  | start =>
    cases hdec : decodeCommand s.seq.word with
    | ok i =>
      obtain ⟨t, ht⟩ := exec_command_goes_on hdec s
      exact ⟨t, (controllerStep_start_ok hp hdec).trans ht⟩
    | error e => exact ⟨_, by rw [controllerStep_start hp, startStep, hdec]⟩
  | pollDelay => exact ⟨_, by rw [controllerStep, hp]⟩
  | pollRead => exact hframe (by rw [phaseFrame, hp]) (exec_fGetStatus_poll _ hp)
  | rdSelect =>
    rw [hp] at hok
    exact hframe (by rw [phaseFrame, hp]) (exec_fPageReadToCache hp (hok.2.rowFits hi.params_wf))
  | rdCache =>
    rw [hp] at hok
    exact hframe (by rw [phaseFrame, hp]) (exec_fReadFromCache hp hok.2.slotFits)
  | wrEnable => exact hframe (by rw [phaseFrame, hp]) (exec_fWriteEnable_page hp)
  | wrLoad =>
    rw [hp] at hok
    exact hframe (by rw [phaseFrame, hp]) (exec_fProgramLoad hp hok.2.slotFits (loadUnit_length s))
  | wrExec =>
    rw [hp] at hok
    exact hframe (by rw [phaseFrame, hp]) (exec_fProgramExecute hp (hok.2.rowFits hi.params_wf))
  | erErase =>
    rw [hp] at hok
    exact hframe (by rw [phaseFrame, hp]) (exec_fBlockErase hp (page_fits hi.params_wf hok.in_range).1)
  | rstSend => exact hframe (by rw [phaseFrame, hp]) (by rw [exec, execFReset, hp])
  | single =>
    rw [hp] at hok
    obtain ⟨i, t, hs, he⟩ := exec_singleFrame hp hok
    exact hframe (by rw [phaseFrame, hp]; exact hs) he

/-- A host move that the spec gives a step goes on (R70, R74). -/
theorem inputStep_goes_on {e : Input} (hi : Inv s) (he : legalInput s.params e = true) :
    ∃ t, inputStep e s = .next t := by
  have hword {off width : Nat} (t : State)
      (h : (decide (width = 4) && decide (off % 4 = 0) && decide (off < 256)) = true) :
      ∃ u, regAccess off width t = .next u := by
    simp only [Bool.and_eq_true, decide_eq_true_eq] at h
    obtain ⟨⟨rfl, halign⟩, hwin⟩ := h
    exact ⟨_, regAccess_word t halign hwin⟩
  cases e with
  | nfc => exact controllerStep_goes_on hi
  | regWrite off width v => exact hword _ he
  | regRead off width => exact hword _ he
  | bufWrite a b => exact ⟨_, bufAccess_inside _ _ (of_decide_eq_true he)⟩
  | bufRead a => exact ⟨_, bufAccess_inside _ _ (of_decide_eq_true he)⟩
  | waitDone => exact ⟨_, rfl⟩
  | reset => exact ⟨_, rfl⟩
  | resetInTransceive => exact ⟨_, rfl⟩

/-- Settles O43: from the invariant every phase's step goes on, and so does every legal move of the host. -/
theorem neverStopsFromTheInvariant : Obligations.NeverStopsFromTheInvariant := by
  intro s hi hlegal
  cases hin : s.inputs with
  | nil => rw [step_of_no_inputs hi.params_wf hin]; exact controllerStep_goes_on hi
  | cons e rest =>
    rw [step_of_input hi.params_wf hin]
    exact inputStep_goes_on (s := { s with inputs := rest }) (inv_of_same hi rfl rfl rfl rfl) (hlegal e rest hin)

end Sys2Proof.Machine
end

section
/-! SUPPORT. Every command ends (R167, R360): a bound on the controller steps that are left, from the phase, the poll
attempts and the pages to come, which every controller step of the invariant brings down. -/

namespace Sys2Proof.Machine

variable {s t : State}

/-! ### How many steps are left -/

/-- The pages of the accepted command that come after the current one. -/
def pagesAfter (s : State) : Nat := pagesWanted s - (s.regs.pagesDone.toNat + 1)

/-- A bound on the steps of one page or of a command without pages: its frames and its poll (R360). -/
def pageSteps (s : State) : Nat := 3 + 2 * s.regs.maxAttempts.toNat

/-- A bound on the steps that the current page needs from its phase on. -/
def phaseSteps (s : State) : Nat :=
  match s.seq.phase with
  | .idle => 0
  | .start => pageSteps s + 2
  | .rdSelect => pageSteps s + 1
  | .wrEnable => pageSteps s + 1
  | .rstSend => pageSteps s + 1
  | .wrLoad => pageSteps s
  | .erErase => pageSteps s
  | .wrExec => pageSteps s - 1
  | .pollRead => 1 + 2 * (s.regs.maxAttempts.toNat - s.regs.pollCount.toNat)
  | .pollDelay => 2 + 2 * (s.regs.maxAttempts.toNat - s.regs.pollCount.toNat)
  | .rdCache => 2
  | .single => 1

/-- A bound on the controller steps until the command ends. -/
def stepsLeft (s : State) : Nat := pagesAfter s * pageSteps s + phaseSteps s

theorem phaseSteps_pos (hp : s.seq.phase ≠ .idle) : 0 < phaseSteps s := by
  unfold phaseSteps pageSteps
  split
  case h_1 h => exact absurd h hp
  all_goals omega

/-- A step within the page brings the bound down where its phase's does. -/
theorem stepsLeft_lt (hkept : HostSideKept s t) (hdone : t.regs.pagesDone = s.regs.pagesDone)
    (hlt : phaseSteps t < phaseSteps s) : stepsLeft t < stepsLeft s := by
  have hwant : pagesWanted t = pagesWanted s := by rw [pagesWanted, pagesWanted, hkept.word, hkept.pageCount]
  have hpages : pagesAfter t = pagesAfter s := by rw [pagesAfter, pagesAfter, hwant, hdone]
  have hsteps : pageSteps t = pageSteps s := by rw [pageSteps, pageSteps, hkept.maxAttempts]
  unfold stepsLeft
  rw [hpages, hsteps]
  omega

/-- The command of the page in progress has no page past the 32-bit count. -/
theorem OnPage.toNat_pagesDone_succ (h : OnPage s) : (s.regs.pagesDone + 1).toNat = s.regs.pagesDone.toNat + 1 := by
  have hmore := h.more
  unfold pagesWanted at hmore
  split at hmore <;> bv_omega

theorem pagesAfter_countPage (h : OnPage s) : pagesAfter (countPage s) = pagesAfter s - 1 := by
  show pagesWanted s - ((s.regs.pagesDone + 1).toNat + 1) = _
  rw [h.toNat_pagesDone_succ, pagesAfter]
  omega

/-- The end of a page leaves the steps of the pages to come, and one for the step that ends it. -/
theorem stepsLeft_pageComplete (hword : readsPages s ∨ programsPages s) (hon : OnPage s) :
    stepsLeft (pageComplete s) ≤ pagesAfter s * pageSteps s + 1 := by
  have hcount := pagesAfter_countPage hon
  rcases pageComplete_cases s with hs | ⟨hlast, h10, h11, hs⟩
  · rw [hs]
    show pagesAfter (countPage s) * pageSteps s + 0 ≤ _
    have := Nat.mul_le_mul_right (pageSteps s) (hcount ▸ Nat.sub_le (pagesAfter s) 1)
    omega
  · have hrange : s.seq.word = 0x20 ∨ s.seq.word = 0x21 := by
      rcases hword with (hw | hw) | (hw | hw)
      · exact absurd (congrArg cmdCode hw) h10
      · exact .inl hw
      · exact absurd (congrArg cmdCode hw) h11
      · exact .inr hw
    have hnext : stepsLeft (pageComplete s) = (pagesAfter s - 1) * pageSteps s + (pageSteps s + 1) := by
      rcases hs with ⟨-, hs⟩ | ⟨-, hs⟩ <;> rw [hs, ← hcount] <;> rfl
    have hmore : 0 < pagesAfter s := by
      have := (hon.next hrange hlast).more
      have hsucc := hon.toNat_pagesDone_succ
      change (s.regs.pagesDone + 1).toNat < pagesWanted s at this
      unfold pagesAfter
      omega
    have hmul := Nat.succ_mul (pagesAfter s - 1) (pageSteps s)
    rw [Nat.succ_eq_add_one, Nat.sub_add_cancel hmore] at hmul
    omega

/-! ### Every step brings the bound down -/

/-- A frame brings the bound below `n` where what goes on after its answer does; a ChannelError ends the command. -/
theorem stepsLeft_sendFrame {i : Instr} {page : Option Nat} {k : List Byte → State → State} {n : Nat}
    (hend : pagesAfter s * pageSteps s < n) (hk : ∀ r, stepsLeft (k r (afterFrame i s)) < n) :
    stepsLeft (sendFrame i page k s) < n := by
  rcases sendFrame_cases i page k s with ⟨-, h⟩ | ⟨r, -, -, h⟩ <;> rw [h]
  · exact hend
  · exact hk r

theorem pages_lt_stepsLeft (hp : s.seq.phase ≠ .idle) : pagesAfter s * pageSteps s < stepsLeft s := by
  have := phaseSteps_pos hp
  unfold stepsLeft
  omega

theorem stepsLeft_continuePoll (hret : RetOk s) : stepsLeft (continuePoll s) ≤ pagesAfter s * pageSteps s + 2 := by
  unfold continuePoll
  unfold RetOk at hret
  cases hr : s.seq.ret with
  | prog =>
    rw [hr] at hret
    exact (stepsLeft_pageComplete (.inr hret.1) hret.2).trans (by omega)
  | read => exact le_rfl
  | _ => exact Nat.le_add_right _ 2

/-- After a counted status read the command has ended, or waits for another attempt, or goes on (R163). -/
theorem stepsLeft_pollReceive (b : Byte) (hret : RetOk s) : stepsLeft (pollReceive b s)
    ≤ pagesAfter s * pageSteps s + 2 + 2 * (s.regs.maxAttempts.toNat - s.regs.pollCount.toNat) := by
  have hkept := pageKept_decodeStatus b s
  have hpages : pagesAfter (decodeStatus b s) * pageSteps (decodeStatus b s) = pagesAfter s * pageSteps s := by
    rw [pagesAfter, pagesAfter, pagesWanted_of_kept hkept, hkept.pagesDone]
    simp [pageSteps]
  rcases pollReceive_cases b s with ⟨-, -, h⟩ | ⟨-, -, h⟩ | ⟨e, -, h⟩ | ⟨v, -, h⟩ <;> rw [h]
  · show pagesAfter (decodeStatus b s) * pageSteps (decodeStatus b s) + (2 + 2 * ((decodeStatus b s).regs.maxAttempts.toNat
      - (decodeStatus b s).regs.pollCount.toNat)) ≤ _
    simp only [hpages, decodeStatus_regs, decodeRegs_maxAttempts, decodeRegs_pollCount]
    omega
  · show pagesAfter (decodeStatus b s) * pageSteps (decodeStatus b s) + 0 ≤ _
    omega
  · show pagesAfter (decodeStatus b s) * pageSteps (decodeStatus b s) + 0 ≤ _
    omega
  · have := stepsLeft_continuePoll (retOk_of_kept hret hkept rfl)
    omega

theorem stepsLeft_pollAttempt (i : Instr) (hp : s.seq.phase = .pollRead) (hret : RetOk s) :
    stepsLeft (pollAttempt i s) < stepsLeft s := by
  have hleft : stepsLeft s = pagesAfter s * pageSteps s
      + (1 + 2 * (s.regs.maxAttempts.toNat - s.regs.pollCount.toNat)) := by
    rw [stepsLeft, phaseSteps, hp]
  have hend : pagesAfter s * pageSteps s < stepsLeft s := pages_lt_stepsLeft (by simp [hp])
  unfold pollAttempt
  split
  · exact hend
  · next hlt =>
    refine stepsLeft_sendFrame (s := countAttempt s) hend fun r => ?_
    have hrecv := stepsLeft_pollReceive (r.headD 0) (s := afterFrame i (countAttempt s))
      (retOk_of_kept hret (by constructor <;> rfl) rfl)
    have hcount : (s.regs.pollCount + 1).toNat = s.regs.pollCount.toNat + 1 := by bv_omega
    change _ ≤ pagesAfter s * pageSteps s + 2 + 2 * (s.regs.maxAttempts.toNat - (s.regs.pollCount + 1).toNat) at hrecv
    omega

theorem stepsLeft_startPages {count : Nat} {first : Phase} (hp : s.seq.phase = .start)
    (hfirst : first = .rdSelect ∨ first = .wrEnable) : stepsLeft (startPages count first s) < stepsLeft s := by
  refine stepsLeft_lt (hostSideKept_startPages _ _ s) ?_ ?_ <;>
    rcases startPages_cases count first s with ⟨-, h⟩ | ⟨-, -, h⟩ | ⟨-, -, h⟩ <;> rw [h]
  case refine_2.inr.inr => rcases hfirst with rfl | rfl <;> simp [phaseSteps, pageSteps, hp]
  all_goals simp [phaseSteps, hp]

/-- Each START step is the first of the steps that its command's bound counts (R111). -/
theorem stepsLeft_exec_command {i : Instr} (hp : s.seq.phase = .start) (hdec : decodeCommand s.seq.word = .ok i)
    (ht : exec i s = .next t) : stepsLeft t < stepsLeft s := by
  have hphase (ph : Phase) (hph : ph = .rstSend ∨ ph = .single) : stepsLeft (setPhase ph s) < stepsLeft s :=
    stepsLeft_lt (hostSideKept_setPhase _ s) rfl (by rcases hph with rfl | rfl <;> simp [phaseSteps, pageSteps, hp])
  obtain ⟨c, hc, -⟩ := decodeCommand_ok hdec
  cases i with
  | reset => cases ht; exact hphase _ (.inl rfl)
  | identify => cases ht; exact hphase _ (.inr rfl)
  | getStatus => cases ht; exact hphase _ (.inr rfl)
  | setStatus => cases ht; exact hphase _ (.inr rfl)
  | writeEnable => cases ht; exact hphase _ (.inr rfl)
  | writeDisable => cases ht; exact hphase _ (.inr rfl)
  | poll =>
    cases ht
    exact stepsLeft_lt (hostSideKept_beginPoll _ s) rfl (by simp [phaseSteps, pageSteps, hp]; omega)
  | readPage => cases ht; exact stepsLeft_startPages hp (.inl rfl)
  | programPage => cases ht; exact stepsLeft_startPages hp (.inr rfl)
  | readRange => cases ht; exact stepsLeft_startPages hp (.inl rfl)
  | programRange => cases ht; exact stepsLeft_startPages hp (.inr rfl)
  | eraseBlock =>
    refine stepsLeft_lt (hostSideKept_exec ht) ?_ ?_ <;>
      rcases execEraseBlock_cases s with ⟨-, he⟩ | he <;> cases he.symm.trans ht <;> simp [phaseSteps, pageSteps, hp]
  | _ => cases hc

theorem phaseSteps_beginPoll (r : Ret) (s : State) : phaseSteps (beginPoll r s) = pageSteps s - 2 := by
  show 1 + 2 * (s.regs.maxAttempts.toNat - 0) = 3 + 2 * s.regs.maxAttempts.toNat - 2
  omega

/-- A frame that a poll follows brings the bound down where its phase counts more steps than the poll has. -/
theorem stepsLeft_sendFrame_beginPoll {i : Instr} {page : Option Nat} {r : Ret} (hp : s.seq.phase ≠ .idle)
    (hlt : pageSteps s - 2 < phaseSteps s) :
    stepsLeft (sendFrame i page (fun _ u => beginPoll r u) s) < stepsLeft s :=
  stepsLeft_sendFrame (pages_lt_stepsLeft hp) fun _ =>
    stepsLeft_lt ((hostSideKept_afterFrame i s).trans (hostSideKept_beginPoll _ _)) rfl
      (by rw [phaseSteps_beginPoll]; exact hlt)

/-- A frame that ends its command leaves no step of the phase. -/
theorem stepsLeft_sendFrame_end {i : Instr} {page : Option Nat} {k : List Byte → State → State}
    (hp : s.seq.phase ≠ .idle) (hk : ∀ r, stepsLeft (k r (afterFrame i s)) = stepsLeft (finishOk (afterFrame i s))) :
    stepsLeft (sendFrame i page k s) < stepsLeft s := by
  have hend : stepsLeft (finishOk (afterFrame i s)) < stepsLeft s := pages_lt_stepsLeft hp
  exact stepsLeft_sendFrame (pages_lt_stepsLeft hp) fun r => by rwa [hk r]

/-- The frame of a phase is one of the steps that the phase's bound counts (R163, R191 to R201, R260, R269). -/
theorem stepsLeft_exec_frame {i : Instr} (hi : Inv s) (hf : commandCode i = none) (ht : exec i s = .next t) :
    stepsLeft t < stepsLeft s := by
  have hok := hi.phase_ok
  unfold PhaseOk at hok
  cases i with
  | fPageReadToCache p =>
    obtain ⟨hp, -, rfl⟩ := execFPageReadToCache_next ht
    exact stepsLeft_sendFrame_beginPoll (by simp [hp]) (by simp only [phaseSteps, hp]; omega)
  | fReadFromCache =>
    obtain ⟨hp, -, rfl⟩ := execFReadFromCache_next ht
    rw [hp] at hok
    have hleft : stepsLeft s = pagesAfter s * pageSteps s + 2 := by rw [stepsLeft, phaseSteps, hp]
    refine stepsLeft_sendFrame (by omega) fun r => ?_
    have := stepsLeft_pageComplete (s := storePage r (afterFrame .fReadFromCache s)) (.inl hok.1) { hok.2 with }
    change _ ≤ pagesAfter s * pageSteps s + 1 at this
    omega
  | fProgramLoad d =>
    obtain ⟨hp, -, -, rfl⟩ := execFProgramLoad_next ht
    have hend : pagesAfter s * pageSteps s < stepsLeft s := pages_lt_stepsLeft (by simp [hp])
    refine stepsLeft_sendFrame (s := countDraw (setScratch d s)) hend fun _ => ?_
    refine stepsLeft_lt (by constructor <;> rfl) rfl ?_
    show pageSteps s - 1 < phaseSteps s
    simp only [phaseSteps, pageSteps, hp]
    omega
  | fProgramExecute p =>
    obtain ⟨hp, -, rfl⟩ := execFProgramExecute_next ht
    exact stepsLeft_sendFrame_beginPoll (by simp [hp]) (by simp only [phaseSteps, pageSteps, hp]; omega)
  | fBlockErase p =>
    obtain ⟨hp, -, rfl⟩ := execFBlockErase_next ht
    exact stepsLeft_sendFrame_beginPoll (by simp [hp]) (by simp only [phaseSteps, pageSteps, hp]; omega)
  | fGetStatus a =>
    obtain ⟨hp, rfl⟩ | ⟨hp, rfl⟩ := execFGetStatus_next ht
    · rw [hp] at hok
      exact stepsLeft_pollAttempt _ hp hok.1
    · exact stepsLeft_sendFrame_end (by simp [hp]) fun _ => rfl
  | fSetStatus a v =>
    obtain ⟨hp, rfl⟩ := execFSetStatus_next ht
    exact stepsLeft_sendFrame_end (by simp [hp]) fun _ => rfl
  | fReset =>
    obtain ⟨hp, rfl⟩ := execFReset_next ht
    exact stepsLeft_sendFrame_beginPoll (by simp [hp]) (by simp only [phaseSteps, hp]; omega)
  | fWriteEnable =>
    obtain ⟨hp, rfl⟩ | ⟨hp, rfl⟩ := execFWriteEnable_next ht
    · refine stepsLeft_sendFrame (pages_lt_stepsLeft (by simp [hp])) fun _ => ?_
      refine stepsLeft_lt (by constructor <;> rfl) rfl ?_
      have hload : phaseSteps (setPhase (if cmdCode s.seq.word = 0x12 then .erErase else .wrLoad)
          (afterFrame .fWriteEnable s)) = pageSteps s := by split <;> rfl
      rw [afterFrame_seq, hload, phaseSteps, hp]
      exact Nat.lt_succ_self _
    · exact stepsLeft_sendFrame_end (by simp [hp]) fun _ => rfl
  | fWriteDisable =>
    obtain ⟨hp, rfl⟩ := execFWriteDisable_next ht
    exact stepsLeft_sendFrame_end (by simp [hp]) fun _ => rfl
  | fReadId =>
    obtain ⟨hp, rfl⟩ := execFReadId_next ht
    exact stepsLeft_sendFrame_end (by simp [hp]) fun _ => rfl
  | _ => cases hf

/-- Every controller step of a running command brings the bound down. -/
theorem stepsLeft_controllerStep (hi : Inv s) (hp : s.seq.phase ≠ .idle) (ht : controllerStep s = .next t) :
    stepsLeft t < stepsLeft s := by
  rcases controllerStep_next ht with ⟨hidle, -⟩ | ⟨hstart, i, hdec, he⟩ | ⟨-, rfl⟩ | ⟨hdelay, rfl⟩ | ⟨i, hf, he⟩
  · exact absurd hidle hp
  · exact stepsLeft_exec_command hstart hdec he
  · exact pages_lt_stepsLeft hp
  · refine stepsLeft_lt (hostSideKept_setPhase _ s) rfl ?_
    simp [phaseSteps, hdelay]
  · exact stepsLeft_exec_frame hi (phaseFrame_commandCode hf) he

/-! ### The end -/

/-- A command of the invariant that the host leaves alone ends within any bound on the steps left. -/
theorem endsWithin_of_stepsLeft {n : Nat} : ∀ {s : State}, Inv s → s.inputs = [] → stepsLeft s ≤ n → endsWithin n s := by
  induction n with
  | zero =>
    intro s _ _ hle
    refine ⟨0, le_rfl, s, rfl, by_contra fun hp => ?_⟩
    have := pages_lt_stepsLeft hp
    omega
  | succ n ih =>
    intro s hi hin hle
    by_cases hp : s.seq.phase = .idle
    · exact ⟨0, Nat.zero_le _, s, rfl, hp⟩
    · obtain ⟨t, ht⟩ := controllerStep_goes_on hi
      have hlt := stepsLeft_controllerStep hi hp ht
      obtain ⟨m, hm, u, hrun, hidle⟩ := ih (inv_controllerStep hi ht)
        ((hostSideKept_controllerStep ht).inputs.trans hin) (by omega)
      have hstep := (step_of_no_inputs hi.params_wf hin).trans ht
      exact ⟨m + 1, by omega, u, (run_succ hstep).trans hrun, hidle⟩

/-- Settles O59: the bound of the accepted command is R360's with one step more, and each controller step brings it
down. -/
theorem everyCommandEnds : Obligations.EveryCommandEnds := by
  intro s hi hin hp
  refine endsWithin_of_stepsLeft hi hin ?_
  have hdone : s.regs.pagesDone = 0 := by simpa [PhaseOk, hp] using hi.phase_ok
  have hleft : stepsLeft s = (pagesWanted s - 1) * pageSteps s + (pageSteps s + 2) := by
    rw [stepsLeft, phaseSteps, hp, pagesAfter, hdone]
    rfl
  have hmul := Nat.succ_mul (pagesWanted s - 1) (pageSteps s)
  have hmax : max 1 (pagesWanted s) = (pagesWanted s - 1).succ := by omega
  rw [stepBound, hmax, hleft]
  change _ ≤ 2 + _ * pageSteps s
  omega

end Sys2Proof.Machine
end

section
/-! SUPPORT. Runs of the controller over a channel whose answers are known (R47, R80, R163): several steps with no move
of the host between, the frames that a channel answers in turn, and where a command has got to after them. -/

namespace Sys2Proof.Machine

variable {s t u : State}

/-! ### Several controller steps -/

/-- The state in which the controller makes its next move: the plan has moved on (R304; log 3). -/
def atMove (s : State) : State := { s with inputs := s.inputs.tail }

@[simp] theorem atMove_params (s : State) : (atMove s).params = s.params := rfl
@[simp] theorem atMove_regs (s : State) : (atMove s).regs = s.regs := rfl
@[simp] theorem atMove_seq (s : State) : (atMove s).seq = s.seq := rfl
@[simp] theorem atMove_mem (s : State) : (atMove s).mem = s.mem := rfl
@[simp] theorem atMove_chan (s : State) : (atMove s).chan = s.chan := rfl
@[simp] theorem atMove_inputs (s : State) : (atMove s).inputs = s.inputs.tail := rfl

/-- `k` controller steps lead from `s` to `t`, each of them planned or made because nothing is (log 3). -/
def ControllerRun : Nat → State → State → Prop
  | 0, s, t => t = s
  | k + 1, s, t => ∃ u, controllerStep (atMove s) = .next u ∧ ControllerRun k u t

theorem ControllerRun.one (h : controllerStep (atMove s) = .next t) : ControllerRun 1 s t := ⟨t, h, rfl⟩

theorem ControllerRun.trans {m n : Nat} (h : ControllerRun m s t) (k : ControllerRun n t u) :
    ControllerRun (m + n) s u := by
  induction m generalizing s with
  | zero => obtain rfl := h; rwa [Nat.zero_add]
  | succ m ih =>
    obtain ⟨v, hv, hrun⟩ := h
    rw [Nat.succ_add]
    exact ⟨v, hv, ih hrun⟩

/-- The host's side but for the plan is kept (R20, R46, R87). -/
def HostKept (s t : State) : Prop := HostSideKept { s with inputs := t.inputs } t

theorem HostKept.refl (s : State) : HostKept s s := HostSideKept.refl s

theorem HostKept.of_side (h : HostSideKept s t) : HostKept s t := { h with inputs := rfl }

theorem HostKept.trans (h : HostKept s t) (k : HostKept t u) : HostKept s u :=
  HostSideKept.trans (t := { t with inputs := u.inputs }) { h with inputs := rfl } k

theorem hostKept_atMove (s : State) : HostKept s (atMove s) := by constructor <;> rfl

section
variable (h : HostKept s t)
include h
theorem HostKept.side : HostSideKept { s with inputs := t.inputs } t := h
theorem HostKept.params : t.params = s.params := h.side.params
theorem HostKept.race : t.race = s.race := h.side.race
theorem HostKept.word : t.seq.word = s.seq.word := h.side.word
theorem HostKept.eccCorrFatal : t.regs.eccCorrFatal = s.regs.eccCorrFatal := h.side.eccCorrFatal
theorem HostKept.startPage : t.regs.startPage = s.regs.startPage := h.side.startPage
theorem HostKept.pageCount : t.regs.pageCount = s.regs.pageCount := h.side.pageCount
theorem HostKept.bufAddr : t.regs.bufAddr = s.regs.bufAddr := h.side.bufAddr
theorem HostKept.bufLen : t.regs.bufLen = s.regs.bufLen := h.side.bufLen
theorem HostKept.maxAttempts : t.regs.maxAttempts = s.regs.maxAttempts := h.side.maxAttempts
end

theorem ControllerRun.inputs {k : Nat} (h : ControllerRun k s t) : t.inputs = s.inputs.drop k := by
  induction k generalizing s with
  | zero => obtain rfl := h; rfl
  | succ k ih =>
    obtain ⟨u, hu, hrun⟩ := h
    rw [ih hrun, (hostSideKept_controllerStep hu).inputs, atMove_inputs, List.drop_tail]

/-- The model runs as the controller does where its steps are planned, or nothing is. -/
theorem run_of_controllerRun {k : Nat} (hwf : s.params.wf = true)
    (hplan : s.inputs = [] ∨ ∃ rest, s.inputs = List.replicate k .nfc ++ rest) (h : ControllerRun k s t) :
    Sys2Proof.core.run k s = .next t := by
  induction k generalizing s with
  | zero => obtain rfl := h; rfl
  | succ k ih =>
    obtain ⟨u, hu, hrun⟩ := h
    have hside := hostSideKept_controllerStep hu
    have hstep : step s = .next u := by
      rcases hplan with hin | ⟨rest, hin⟩
      · have hmove : atMove s = s := by rw [atMove, hin, List.tail_nil, ← hin]
        rw [step_of_no_inputs hwf hin, ← hmove, hu]
      · rw [List.replicate_succ, List.cons_append] at hin
        have hmove : atMove s = { s with inputs := List.replicate k .nfc ++ rest } := by rw [atMove, hin, List.tail_cons]
        rw [step_of_input hwf hin, inputStep_nfc, ← hmove, hu]
    refine (run_succ hstep).trans (ih (by rw [hside.params]; exact hwf) ?_ hrun)
    rw [hside.inputs, atMove_inputs]
    rcases hplan with hin | ⟨rest, hin⟩ <;> rw [hin]
    · exact .inl rfl
    · exact .inr ⟨rest, rfl⟩

theorem run_add {k n : Nat} (h : Sys2Proof.core.run k s = .next t) :
    Sys2Proof.core.run (k + n) s = Sys2Proof.core.run n t := by
  induction k generalizing s with
  | zero => cases h; rw [Nat.zero_add]
  | succ k ih =>
    rw [Nat.succ_add]
    cases hstep : step s with
    | next u => rw [run_succ hstep] at h ⊢; exact ih h
    | fault r =>
      have hcore : Sys2Proof.core.step s = .fault r := hstep
      simp only [Host.Core.run, hcore, reduceCtorEq] at h
    | refused r =>
      have hcore : Sys2Proof.core.step s = .refused r := hstep
      simp only [Host.Core.run, hcore, reduceCtorEq] at h

/-! ### What the channel answers -/

/-- The channel after a Transceive of frame `i` (R80). -/
def channelAfter (P : Profile) (c : Channel) (i : Instr) : Channel :=
  { sent := c.sent ++ [frameTxn P i], dev := (deviceReply P c (frameTxn P i)).2 }

/-- The channel `c` answers the frames of `l` in order, each with the response beside it, and is `c'` then. -/
def Answers (P : Profile) : Channel → List (Instr × List Byte) → Channel → Prop
  | c, [], c' => c' = c
  | c, e :: l, c' => checkedResponse (respLen P e.1) (deviceReply P c (frameTxn P e.1)).1 = some e.2 ∧
      Answers P (channelAfter P c e.1) l c'

theorem answers_append {P : Profile} {l₁ l₂ : List (Instr × List Byte)} {c c' : Channel} :
    Answers P c (l₁ ++ l₂) c' ↔ ∃ c₁, Answers P c l₁ c₁ ∧ Answers P c₁ l₂ c' := by
  induction l₁ generalizing c with
  | nil => simp [Answers]
  | cons e l ih => simp [Answers, ih, and_assoc]

theorem answers_sent {P : Profile} {l : List (Instr × List Byte)} {c c' : Channel} (h : Answers P c l c') :
    c'.sent = c.sent ++ framesSent P (l.map Prod.fst) := by
  induction l generalizing c with
  | nil => obtain rfl := h; simp [framesSent]
  | cons e l ih => rw [ih h.2]; simp [channelAfter, framesSent]

/-- Prepared answers of the requested lengths are the responses to the frames, in order (R80, R81). -/
theorem answers_of_prepared {P : Profile} {l : List (Instr × List Byte)} {rest : List Answer} {c : Channel}
    (hdev : c.dev = .oracle (l.map (fun e => Answer.bytes e.2) ++ rest))
    (hlen : ∀ e ∈ l, e.2.length = respLen P e.1) : ∃ c', Answers P c l c' := by
  induction l generalizing c with
  | nil => exact ⟨c, rfl⟩
  | cons e l ih =>
    have hreply : deviceReply P c (frameTxn P e.1)
        = (.bytes e.2, .oracle (l.map (fun e => Answer.bytes e.2) ++ rest)) := by rw [deviceReply, hdev]; rfl
    obtain ⟨c', hc'⟩ := ih (c := channelAfter P c e.1) (congrArg Prod.snd hreply)
      (fun e he => hlen e (List.mem_cons_of_mem _ he))
    exact ⟨c', by rw [hreply]; exact if_pos (hlen e List.mem_cons_self), hc'⟩

/-! ### Where a command has got to -/

/-- From `s` to `t` the command has completed `pages` pages and made `txns` Transceives, the channel is `c` and buffer
memory `m` (R38, R234). -/
structure Progress (s : State) (pages txns : Nat) (c : Channel) (m : Memory) (t : State) : Prop where
  host : HostKept s t
  cur : t.seq.cur = s.seq.cur + pages
  pagesDone : t.regs.pagesDone = s.regs.pagesDone + BitVec.ofNat 32 pages
  txnCount : t.regs.txnCount = s.regs.txnCount + BitVec.ofNat 32 txns
  chan : t.chan = c
  mem : t.mem = m

theorem Progress.refl (s : State) : Progress s 0 0 s.chan s.mem s :=
  ⟨.refl s, rfl, (BitVec.add_zero _).symm, (BitVec.add_zero _).symm, rfl, rfl⟩

theorem Progress.trans {p q m n : Nat} {c c' : Channel} {x x' : Memory} (h : Progress s p m c x t)
    (k : Progress t q n c' x' u) : Progress s (p + q) (m + n) c' x' u where
  host := h.host.trans k.host
  cur := by rw [k.cur, h.cur, Nat.add_assoc]
  pagesDone := by rw [k.pagesDone, h.pagesDone, BitVec.add_assoc, BitVec.ofNat_add]
  txnCount := by rw [k.txnCount, h.txnCount, BitVec.add_assoc, BitVec.ofNat_add]
  chan := k.chan
  mem := k.mem

theorem Progress.cast {p q m n : Nat} {c : Channel} {x : Memory} (h : Progress s p m c x t) (hp : p = q) (hm : m = n) :
    Progress s q n c x t := hp ▸ hm ▸ h

/-- The phase, the continuation of the poll and its count are no progress. -/
theorem Progress.setPhase {p n : Nat} {c : Channel} {x : Memory} (ph : Phase) (h : Progress s p n c x t) :
    Progress s p n c x (setPhase ph t) := { h with host := h.host.trans (.of_side (hostSideKept_setPhase ph t)) }

theorem Progress.beginPoll {p n : Nat} {c : Channel} {x : Memory} (r : Ret) (h : Progress s p n c x t) :
    Progress s p n c x (beginPoll r t) := { h with host := h.host.trans (.of_side (hostSideKept_beginPoll r t)) }

theorem Progress.finishOk {p n : Nat} {c : Channel} {x : Memory} (h : Progress s p n c x t) :
    Progress s p n c x (finishOk t) := { h with host := h.host.trans (.of_side (hostSideKept_finishOk t)) }

theorem Progress.atMove {p n : Nat} {c : Channel} {x : Memory} (h : Progress s p n c x t) :
    Progress s p n c x (atMove t) := { h with host := h.host.trans (hostKept_atMove t) }

theorem Progress.of_atMove {p n : Nat} {c : Channel} {x : Memory} (h : Progress (Machine.atMove s) p n c x t) :
    Progress s p n c x t := { h with }

theorem Progress.countPage {p n : Nat} {c : Channel} {x : Memory} (h : Progress s p n c x t) :
    Progress s (p + 1) n c x (countPage t) where
  host := h.host.trans (.of_side (hostSideKept_countPage t))
  cur := congrArg (· + 1) h.cur
  pagesDone := by
    show t.regs.pagesDone + 1#32 = _
    rw [h.pagesDone, BitVec.ofNat_add, BitVec.add_assoc]
  txnCount := h.txnCount
  chan := h.chan
  mem := h.mem

theorem progress_afterFrame (i : Instr) (s : State) :
    Progress s 0 1 (channelAfter s.params.profile s.chan i) s.mem (afterFrame i s) :=
  ⟨.of_side (hostSideKept_afterFrame i s), rfl, (BitVec.add_zero _).symm, rfl, rfl, rfl⟩

/-- Within a page nothing changes of what the page conditions read. -/
theorem Progress.pageKept {n : Nat} {c : Channel} {x : Memory} (h : Progress s 0 n c x t) : PageKept s t :=
  ⟨h.host.params, h.host.word, h.cur, h.host.startPage, h.host.pageCount, h.host.bufAddr, h.host.bufLen,
    h.pagesDone.trans (BitVec.add_zero _)⟩

theorem slotAddr_of_kept (k : PageKept s t) : slotAddr t = slotAddr s := by
  rw [slotAddr, slotAddr, k.bufAddr, k.cur, k.startPage, k.params]

theorem reportsReady_of_kept {b : Byte} (h : ReportsReady s b) (k : HostKept s t) : ReportsReady t b := by
  unfold ReportsReady at *
  rwa [k.params, k.eccCorrFatal]

/-! ### The steps of a page -/

theorem controllerStep_rdSelect {r : List Byte} (hp : s.seq.phase = .rdSelect)
    (hrow : rowFits s.params.profile s.seq.cur = true) (hans : frameAnswer (.fPageReadToCache s.seq.cur) s = some r) :
    controllerStep s = .next (beginPoll .read (afterFrame (.fPageReadToCache s.seq.cur) s)) := by
  rw [controllerStep_frame (by rw [phaseFrame, hp]), exec_fPageReadToCache hp hrow, sendFrame_ok _ _ hans]

theorem controllerStep_rdCache {r : List Byte} (hp : s.seq.phase = .rdCache) (hfit : slotFits s = true)
    (hans : frameAnswer .fReadFromCache s = some r) :
    controllerStep s = .next (pageComplete (storePage r (afterFrame .fReadFromCache s))) := by
  rw [controllerStep_frame (by rw [phaseFrame, hp]), exec_fReadFromCache hp hfit, sendFrame_ok _ _ hans]

theorem controllerStep_wrEnable {r : List Byte} (hp : s.seq.phase = .wrEnable) (hword : cmdCode s.seq.word ≠ 0x12)
    (hans : frameAnswer .fWriteEnable s = some r) :
    controllerStep s = .next (setPhase .wrLoad (afterFrame .fWriteEnable s)) := by
  rw [controllerStep_frame (by rw [phaseFrame, hp]), exec_fWriteEnable_page hp, sendFrame_ok _ _ hans, afterFrame_seq,
    if_neg hword]

theorem controllerStep_wrLoad {r : List Byte} (hp : s.seq.phase = .wrLoad) (hfit : slotFits s = true)
    (hans : frameAnswer (.fProgramLoad (loadUnit s)) s = some r) :
    controllerStep s = .next (setPhase .wrExec
      (afterFrame (.fProgramLoad (loadUnit s)) (countDraw (setScratch (loadUnit s) s)))) := by
  rw [controllerStep_frame (by rw [phaseFrame, hp]), exec_fProgramLoad hp hfit (loadUnit_length s),
    sendFrame_ok (s := countDraw (setScratch (loadUnit s) s)) _ _ hans]

theorem controllerStep_wrExec {r : List Byte} (hp : s.seq.phase = .wrExec)
    (hrow : rowFits s.params.profile s.seq.cur = true) (hans : frameAnswer (.fProgramExecute s.seq.cur) s = some r) :
    controllerStep s = .next (beginPoll .prog (afterFrame (.fProgramExecute s.seq.cur) s)) := by
  rw [controllerStep_frame (by rw [phaseFrame, hp]), exec_fProgramExecute hp hrow, sendFrame_ok _ _ hans]

theorem controllerStep_pollDelay (hp : s.seq.phase = .pollDelay) : controllerStep s = .next (setPhase .pollRead s) := by
  rw [controllerStep, hp]

/-! ### The poll -/

/-- One more read of a poll has been counted, and its byte decoded (R162, R163). -/
def afterStatusRead (b : Byte) (s : State) : State :=
  decodeStatus b (afterFrame (statusRead s.params.profile) (countAttempt s))

/-- A status read below the budget is decoded and acted on (R163). -/
theorem controllerStep_pollRead {b : Byte} (hp : s.seq.phase = .pollRead)
    (hlt : s.regs.pollCount.toNat < s.regs.maxAttempts.toNat)
    (hans : frameAnswer (statusRead s.params.profile) s = some [b]) :
    controllerStep s
      = .next (pollDecide (decodeOutcome s.params.profile s.regs.eccCorrFatal b) (afterStatusRead b s)) := by
  rw [controllerStep_frame (i := statusRead s.params.profile) (by rw [phaseFrame, hp]; rfl), statusRead,
    exec_fGetStatus_poll _ hp, pollAttempt, if_neg (by omega), ← statusRead, sendFrame_ok (s := countAttempt s) _ _ hans]
  rfl

theorem progress_afterStatusRead (b : Byte) (s : State) :
    Progress s 0 1 (channelAfter s.params.profile s.chan (statusRead s.params.profile)) s.mem (afterStatusRead b s) := by
  refine ⟨.of_side ?_, rfl, ?_, ?_, rfl, rfl⟩
  · exact ((hostSideKept_countAttempt s).trans (hostSideKept_afterFrame _ _)).trans (hostSideKept_decodeStatus b _)
  · simp [afterStatusRead]
  · simp [afterStatusRead]

theorem afterStatusRead_pollCount {b : Byte} (h : s.regs.pollCount.toNat < s.regs.maxAttempts.toNat) :
    (afterStatusRead b s).regs.pollCount.toNat = s.regs.pollCount.toNat + 1 := by
  have hcount : (afterStatusRead b s).regs.pollCount = s.regs.pollCount + 1 := by simp [afterStatusRead]
  rw [hcount]
  bv_omega

theorem decodeOutcome_busy {P : Profile} {b : Byte} (fatal : Bool) (h : b &&& P.busyMask ≠ 0) :
    decodeOutcome P fatal b = .busy := if_pos (decide_eq_true h)

/-- A busy byte leaves the ECC registers alone (R161). -/
theorem decodeRegs_of_busy {P : Profile} {b : Byte} (r : Regs) (h : b &&& P.busyMask ≠ 0) :
    decodeRegs P b r = { r with statusRaw := b } := by
  have hecc : reachesEcc P b = false := by rw [reachesEcc, statusBusy, decide_eq_true h]; rfl
  rw [decodeRegs, hecc]
  rfl

/-- The frames of status reads, each with the byte that answers it. -/
def statusScript (P : Profile) (bs : List Byte) : List (Instr × List Byte) := bs.map fun b => (statusRead P, [b])

theorem statusScript_responses (P : Profile) (bs : List Byte) :
    (statusScript P bs).map (fun e => Answer.bytes e.2) = statusAnswers bs := by
  rw [statusScript, List.map_map, statusAnswers]
  rfl

theorem statusScript_frames (P : Profile) (bs : List Byte) :
    (statusScript P bs).map Prod.fst = List.replicate bs.length (statusRead P) := by
  rw [statusScript, List.map_map]
  exact List.map_const' ..

theorem statusScript_lengths (P : Profile) (bs : List Byte) : ∀ e ∈ statusScript P bs, e.2.length = respLen P e.1 := by
  intro e he
  obtain ⟨b, -, rfl⟩ := List.mem_map.mp he
  rfl

/-- One busy read that leaves some of the budget, with the delay after it (R163, R164). -/
theorem controllerRun_busyRead {b : Byte} (hp : s.seq.phase = .pollRead) (hb : b &&& s.params.profile.busyMask ≠ 0)
    (hmax : s.regs.pollCount.toNat + 1 < s.regs.maxAttempts.toNat)
    (hans : frameAnswer (statusRead s.params.profile) s = some [b]) :
    ∃ t, ControllerRun 2 s t ∧ t.seq = s.seq ∧ t.regs.pollCount.toNat = s.regs.pollCount.toNat + 1 ∧
      Progress s 0 1 (channelAfter s.params.profile s.chan (statusRead s.params.profile)) s.mem t ∧
      t.regs.eccMax = s.regs.eccMax ∧ t.regs.lastEcc = s.regs.lastEcc := by
  have hlt : (atMove s).regs.pollCount.toNat < (atMove s).regs.maxAttempts.toNat := by rw [atMove_regs]; omega
  have hcount := afterStatusRead_pollCount (b := b) hlt
  have hprog := (progress_afterStatusRead b (atMove s)).of_atMove
  have hregs : (afterStatusRead b (atMove s)).regs.eccMax = s.regs.eccMax ∧
      (afterStatusRead b (atMove s)).regs.lastEcc = s.regs.lastEcc := by
    rw [afterStatusRead, decodeStatus_regs, decodeRegs_of_busy _ (by exact hb)]
    exact ⟨rfl, rfl⟩
  have hread : controllerStep (atMove s) = .next (setPhase .pollDelay (afterStatusRead b (atMove s))) := by
    rw [controllerStep_pollRead (s := atMove s) hp hlt hans, decodeOutcome_busy _ (by exact hb), pollDecide, hcount,
      hprog.host.maxAttempts]
    exact congrArg _ (if_pos hmax)
  refine ⟨_, ⟨_, hread, _, controllerStep_pollDelay rfl, rfl⟩, ?_, hcount, (hprog.setPhase _).atMove.setPhase _, hregs⟩
  show { s.seq with phase := .pollRead } = s.seq
  rw [← hp]

/-- Busy reads below the budget: two steps each, and the poll is about to read again (R163, R164, R167). -/
theorem controllerRun_busyReads {bs : List Byte} {c : Channel} (hp : s.seq.phase = .pollRead)
    (hbusy : AllBusy s.params.profile bs) (hmax : s.regs.pollCount.toNat + bs.length < s.regs.maxAttempts.toNat)
    (hans : Answers s.params.profile s.chan (statusScript s.params.profile bs) c) :
    ∃ t, ControllerRun (2 * bs.length) s t ∧ t.seq = s.seq ∧
      t.regs.pollCount.toNat = s.regs.pollCount.toNat + bs.length ∧ Progress s 0 bs.length c s.mem t ∧
      t.regs.eccMax = s.regs.eccMax ∧ t.regs.lastEcc = s.regs.lastEcc := by
  induction bs generalizing s with
  | nil => obtain rfl := hans; exact ⟨s, rfl, rfl, rfl, .refl s, rfl, rfl⟩
  | cons b bs ih =>
    obtain ⟨hb, hbs⟩ := List.forall_mem_cons.mp hbusy
    rw [List.length_cons] at hmax ⊢
    obtain ⟨u, hrun, hseq, hcount, hprog, hmaxEcc, hlastEcc⟩ := controllerRun_busyRead hp hb (by omega) hans.1
    obtain ⟨t, hrun', hseq', hcount', hprog', hmaxEcc', hlastEcc'⟩ := ih (s := u) (by rw [hseq, hp])
      (by rw [hprog.host.params]; exact hbs) (by rw [hcount, hprog.host.maxAttempts]; omega)
      (by rw [hprog.host.params, hprog.chan]; exact hans.2)
    have htrans := hprog.trans hprog'
    rw [hprog.mem, Nat.zero_add, Nat.add_comm 1] at htrans
    refine ⟨t, ?_, hseq'.trans hseq, by omega, htrans, hmaxEcc'.trans hmaxEcc, hlastEcc'.trans hlastEcc⟩
    rw [Nat.mul_succ, Nat.add_comm]
    exact hrun.trans hrun'

/-- A poll that meets `bs.length` busy bytes and then a Ready one goes on as its continuation says, one step after the
busy reads (R163, R165, R167). -/
theorem controllerRun_poll {bs : List Byte} {b : Byte} {c : Channel} (hp : s.seq.phase = .pollRead)
    (hbusy : AllBusy s.params.profile bs) (hready : ReportsReady s b)
    (hmax : s.regs.pollCount.toNat + bs.length < s.regs.maxAttempts.toNat)
    (hans : Answers s.params.profile s.chan (statusScript s.params.profile (bs ++ [b])) c) :
    ∃ u, ControllerRun (2 * bs.length + 1) s (continuePoll u) ∧ u.seq = s.seq ∧
      u.regs.pollCount.toNat = s.regs.pollCount.toNat + (bs.length + 1) ∧ Progress s 0 (bs.length + 1) c s.mem u := by
  rw [statusScript, List.map_append] at hans
  obtain ⟨c₁, hans₁, hans₂⟩ := answers_append.mp hans
  obtain ⟨t, hrun, hseq, hcount, hprog, -⟩ := controllerRun_busyReads hp hbusy hmax hans₁
  rw [← hprog.chan, ← hprog.host.params] at hans₂
  obtain ⟨hans₂, rfl⟩ := hans₂
  have hlt : (atMove t).regs.pollCount.toNat < (atMove t).regs.maxAttempts.toNat := by
    rw [atMove_regs, hprog.host.maxAttempts, hcount]; exact hmax
  obtain ⟨v, hv⟩ := reportsReady_of_kept hready hprog.host
  have hread : controllerStep (atMove t) = .next (continuePoll (afterStatusRead b (atMove t))) := by
    rw [controllerStep_pollRead (s := atMove t) (by rw [atMove_seq, hseq, hp]) hlt (by exact hans₂)]
    exact congrArg (fun o => Host.Outcome.next (pollDecide o _)) hv
  have htrans := hprog.trans (progress_afterStatusRead b (atMove t)).of_atMove
  rw [atMove_mem, hprog.mem] at htrans
  refine ⟨_, hrun.trans (.one hread), hseq, ?_, htrans⟩
  rw [afterStatusRead_pollCount hlt, atMove_regs, hcount, Nat.add_assoc]

end Sys2Proof.Machine
end

section
/-! SUPPORT. Reading pages (R190 to R193, R232 to R234): one page from its select to its end, then a range page after
page, each stored in its own slot. -/

namespace Sys2Proof.Machine

variable {s t : State}

/-! ### Pages side by side in memory -/

theorem memWrite_append (l₁ l₂ : List Byte) : ∀ (m : Memory) (a : Nat),
    memWrite m a (l₁ ++ l₂) = memWrite (memWrite m a l₁) (a + l₁.length) l₂ := by
  induction l₁ with
  | nil => intro m a; rfl
  | cons b l₁ ih =>
    intro m a
    rw [List.cons_append, memWrite, ih, memWrite, List.length_cons, Nat.add_assoc, Nat.add_comm 1]

/-- Of blocks of one size written side by side, block `i` stands in slot `i`. -/
theorem memRead_memWrite_blocks {n : Nat} {blocks : List (List Byte)} (hlen : ∀ d ∈ blocks, d.length = n) :
    ∀ {m : Memory} {a i : Nat} {d : List Byte}, memWf m = true → blocks[i]? = some d →
      memRead (memWrite m a blocks.flatten) (a + i * n) n = d := by
  induction blocks with
  | nil => intro m a i d _ hd; simp at hd
  | cons e blocks ih =>
    intro m a i d hmem hd
    obtain ⟨he, hblocks⟩ := List.forall_mem_cons.mp hlen
    rw [List.flatten_cons, memWrite_append, he]
    cases i with
    | zero =>
      obtain rfl := Option.some.inj hd
      rw [Nat.zero_mul, Nat.add_zero, memRead_congr fun x _ hx => memByte_memWrite_outside _ _ (.inl hx), ← he]
      exact memRead_memWrite m a e hmem
    | succ i =>
      have := ih hblocks (a := a + n) (memWf_memWrite e m a hmem) hd
      rwa [Nat.add_assoc, Nat.add_comm n, ← Nat.succ_mul] at this

theorem length_flatten_blocks {n : Nat} {blocks : List (List Byte)} (hlen : ∀ d ∈ blocks, d.length = n) :
    blocks.flatten.length = blocks.length * n := by
  rw [List.length_flatten, List.map_congr_left hlen, List.map_const', List.sum_replicate, smul_eq_mul]

/-! ### One page -/

/-- The frames that read page `p`, each with its response: the select, the poll that meets `bs` and then `b`, and the
page `r` (R191, R192). -/
def readScript (P : Profile) (p : Nat) (bs : List Byte) (b : Byte) (r : List Byte) : List (Instr × List Byte) :=
  (.fPageReadToCache p, []) :: (statusScript P (bs ++ [b]) ++ [(.fReadFromCache, r)])

theorem readScript_responses (P : Profile) (p : Nat) (bs : List Byte) (b : Byte) (r : List Byte) :
    (readScript P p bs b r).map (fun e => Answer.bytes e.2)
      = [.bytes []] ++ statusAnswers (bs ++ [b]) ++ [.bytes r] := by
  simp [readScript, statusScript_responses]

theorem readScript_frames (P : Profile) (p : Nat) (bs : List Byte) (b : Byte) (r : List Byte) :
    (readScript P p bs b r).map Prod.fst
      = .fPageReadToCache p :: (List.replicate (bs.length + 1) (statusRead P) ++ [.fReadFromCache]) := by
  simp [readScript, statusScript_frames]

theorem readScript_lengths {P : Profile} {p : Nat} {bs : List Byte} {b : Byte} {r : List Byte} (hr : r.length = P.cu) :
    ∀ e ∈ readScript P p bs b r, e.2.length = respLen P e.1 := by
  intro e he
  rcases List.mem_cons.mp he with rfl | he
  · rfl
  · rcases List.mem_append.mp he with he | he
    · exact statusScript_lengths P _ e he
    · obtain rfl := List.mem_singleton.mp he
      exact hr

theorem continuePoll_read (h : s.seq.ret = .read) : continuePoll s = setPhase .rdCache s := by rw [continuePoll, h]

theorem slotFits_of_kept (h : slotFits s = true) (k : PageKept s t) : slotFits t = true := by
  rwa [slotFits, slotAddr_of_kept k, k.startPage, k.cur, k.params]

/-- A page is read in `2N + 3` steps after `N` busy reads, and its store and its end are the last of them (R193). -/
theorem controllerRun_readPage {bs : List Byte} {b : Byte} {r : List Byte} {c : Channel} (hp : s.seq.phase = .rdSelect)
    (hrow : rowFits s.params.profile s.seq.cur = true) (hfit : slotFits s = true)
    (hbusy : AllBusy s.params.profile bs) (hready : ReportsReady s b) (hmax : bs.length < s.regs.maxAttempts.toNat)
    (hans : Answers s.params.profile s.chan (readScript s.params.profile s.seq.cur bs b r) c) :
    ∃ v, ControllerRun (2 * bs.length + 3) s (pageComplete (storePage r v)) ∧ Progress s 0 (bs.length + 3) c s.mem v ∧
      v.regs.pollCount.toNat = bs.length + 1 := by
  obtain ⟨hselect, hrest⟩ := hans
  obtain ⟨c₁, hpoll, hpage, rfl⟩ := answers_append.mp hrest
  have hstart := controllerStep_rdSelect (s := atMove s) hp hrow hselect
  have hprog := ((progress_afterFrame (.fPageReadToCache s.seq.cur) (atMove s)).of_atMove).beginPoll .read
  obtain ⟨u, hrun, hseq, hcount, hprog'⟩ := controllerRun_poll (s := beginPoll .read (afterFrame _ (atMove s))) rfl hbusy
    (reportsReady_of_kept hready hprog.host) (by rw [hprog.host.maxAttempts]; exact (Nat.zero_add _).symm ▸ hmax) hpoll
  have hread := (hprog.trans hprog').setPhase .rdCache
  rw [continuePoll_read (by rw [hseq]; rfl)] at hrun
  have hfit' := slotFits_of_kept hfit hread.pageKept
  have hcache := controllerStep_rdCache (s := atMove (setPhase .rdCache u)) (r := r) rfl hfit'
    (by rw [← hread.chan, ← hread.host.params] at hpage; exact hpage)
  have hlast := hread.trans (progress_afterFrame .fReadFromCache (atMove (setPhase .rdCache u))).of_atMove
  simp only [atMove_params, atMove_chan, atMove_mem, hread.chan, hread.mem, hread.host.params] at hlast
  have htxns : 1 + (bs.length + 1) + 1 = bs.length + 3 := by omega
  rw [htxns] at hlast
  exact ⟨_, ⟨_, hstart, hrun.trans (.one hcache)⟩, hlast, hcount.trans (Nat.zero_add _)⟩

/-! ### The end of a page -/

theorem pageComplete_single (h : s.seq.word = 0x10 ∨ s.seq.word = 0x11) : pageComplete s = finishOk (countPage s) :=
  if_pos (h.imp (congrArg cmdCode) (congrArg cmdCode))

theorem pageComplete_last (h : s.regs.pagesDone + 1 = s.regs.pageCount) : pageComplete s = finishOk (countPage s) := by
  rw [pageComplete, if_pos h, ite_self]

/-- Before its last page a range command goes on with the phase that its word names (R234). -/
theorem pageComplete_next {ph : Phase} (hnext : s.regs.pagesDone + 1 ≠ s.regs.pageCount)
    (hword : s.seq.word = 0x20 ∧ ph = .rdSelect ∨ s.seq.word = 0x21 ∧ ph = .wrEnable) :
    pageComplete s = setPhase ph (countPage s) := by
  rcases hword with ⟨hw, rfl⟩ | ⟨hw, rfl⟩ <;> rw [pageComplete, if_neg, if_neg hnext, hw] <;>
    simp [hw, cmdCode]

/-- The store of a page that no host raced for (R192). -/
theorem Progress.storePage {p n : Nat} {c : Channel} {x : Memory} (r : List Byte) (h : Progress s p n c x t)
    (hrace : t.race = []) :
    Progress s p n c (memWrite x (slotAddr t) (r.take t.params.profile.pageSizeBytes)) (storePage r t) :=
  { h with
    host := h.host.trans (.of_side (hostSideKept_storePage r t))
    mem := by rw [storePage_mem, hrace, settleBytes_nil, h.mem] }

/-! ### READ_PAGE -/

theorem startPages_of_rangeOk {count : Nat} {first : Phase} (h : rangeOk s s.regs.startPage.toNat count = true)
    (hpos : 0 < count) : startPages count first s = setPhase first (setCur s.regs.startPage.toNat s) := by
  rw [startPages, if_pos h, if_neg hpos.ne']

/-- Where START of a buffer command whose range fits leads: to its first page (R190, R195, R232, R236). -/
def atFirstPage (ph : Phase) (s : State) : State := setPhase ph (setCur s.regs.startPage.toNat (atMove s))

@[simp] theorem atFirstPage_regs (ph : Phase) (s : State) : (atFirstPage ph s).regs = s.regs := rfl

theorem hostKept_atFirstPage (ph : Phase) (s : State) : HostKept s (atFirstPage ph s) := by constructor <;> rfl

theorem onPage_atFirstPage {ph : Phase} (hrange : rangeOk s s.regs.startPage.toNat (pagesWanted s) = true)
    (hpos : 0 < pagesWanted s) (hdone : s.regs.pagesDone = 0) : OnPage (atFirstPage ph s) where
  in_range := hrange
  cur_eq := by rw [atFirstPage_regs, hdone]; rfl
  more := by
    show s.regs.pagesDone.toNat < pagesWanted s
    rwa [hdone]

/-- The slot of the first page is at BUF_ADDR (R73). -/
theorem slotAddr_atFirstPage (ph : Phase) (s : State) : slotAddr (atFirstPage ph s) = s.regs.bufAddr.toNat := by
  simp [slotAddr, atFirstPage]

theorem controllerStep_start_pages {count : Nat} {i : Instr} {ph : Phase} (hp : s.seq.phase = .start)
    (hdec : decodeCommand s.seq.word = .ok i) (hexec : exec i (atMove s) = .next (startPages count ph (atMove s)))
    (hrange : rangeOk s s.regs.startPage.toNat count = true) (hpos : 0 < count) :
    controllerStep (atMove s) = .next (atFirstPage ph s) := by
  rw [controllerStep_start_ok (s := atMove s) hp hdec, hexec, startPages_of_rangeOk (by exact hrange) hpos]
  rfl

/-- START of a range command over no page ends it (R232, R236). -/
theorem controllerStep_start_empty {i : Instr} {ph : Phase} (hp : s.seq.phase = .start)
    (hdec : decodeCommand s.seq.word = .ok i) (hexec : exec i (atMove s) = .next (startPages 0 ph (atMove s)))
    (hrange : rangeOk s s.regs.startPage.toNat 0 = true) :
    controllerStep (atMove s) = .next (finishOk (setCur s.regs.startPage.toNat (atMove s))) := by
  rw [controllerStep_start_ok (s := atMove s) hp hdec, hexec, startPages, if_pos (by exact hrange), if_pos rfl]
  rfl

/-- READ_PAGE of a page in range, whatever device stands behind the channel: it ends after its frames, with the response
at BUF_ADDR (R190 to R193). -/
theorem run_readPage {bs : List Byte} {b : Byte} {r : List Byte} {c : Channel} (hs : Accepted 0x10 s)
    (hrange : rangeOk s s.regs.startPage.toNat 1 = true) (hbusy : AllBusy s.params.profile bs)
    (hready : ReportsReady s b) (hmax : bs.length < s.regs.maxAttempts.toNat) (hlen : r.length = s.params.profile.cu)
    (hans : Answers s.params.profile s.chan (readScript s.params.profile s.regs.startPage.toNat bs b r) c) :
    ∃ t, Sys2Proof.core.run (2 * bs.length + 4) s = .next t ∧ EndedOk t ∧ t.regs.pagesDone = 1 ∧
      t.regs.pollCount.toNat = bs.length + 1 ∧ t.regs.txnCount = BitVec.ofNat 32 (bs.length + 3) ∧ t.chan = c ∧
      memRead t.mem s.regs.bufAddr.toNat s.params.profile.pageSizeBytes = r.take s.params.profile.pageSizeBytes ∧
      MemKeptOutside s.regs.bufAddr.toNat s.params.profile.pageSizeBytes s t := by
  have hwant : pagesWanted s = 1 := by rw [pagesWanted, hs.word]; rfl
  have hstart := controllerStep_start_pages hs.phase (i := .readPage) (by rw [hs.word]; rfl) rfl hrange Nat.one_pos
  have hon : OnPage (atFirstPage .rdSelect s) := onPage_atFirstPage (hwant ▸ hrange) (hwant ▸ Nat.one_pos) hs.pagesDone
  obtain ⟨v, hrun, hprog, hcount⟩ := controllerRun_readPage rfl (hon.rowFits hs.params_wf) hon.slotFits
    hbusy hready hmax hans
  have hword : (storePage r v).seq.word = 0x10 := hprog.host.word.trans hs.word
  rw [pageComplete_single (.inl hword)] at hrun
  have hend := (hprog.storePage r (hprog.host.race.trans hs.race)).countPage.finishOk
  have hmem : (finishOk (countPage (storePage r v))).mem
      = memWrite s.mem s.regs.bufAddr.toNat (r.take s.params.profile.pageSizeBytes) := by
    rw [hend.mem, slotAddr_of_kept hprog.pageKept, slotAddr_atFirstPage, hprog.host.params]
    rfl
  have htake := length_take_page hlen
  have hread := memRead_memWrite s.mem s.regs.bufAddr.toNat (r.take s.params.profile.pageSizeBytes) hs.mem_wf
  rw [htake] at hread
  refine ⟨_, run_of_controllerRun hs.params_wf (.inl hs.inputs) ⟨_, hstart, hrun⟩, endedOk_finishOk _, ?_, hcount, ?_,
    hend.chan, by rw [hmem, hread], fun a ha => ?_⟩
  · exact hend.pagesDone.trans (by rw [atFirstPage_regs, hs.pagesDone]; rfl)
  · exact hend.txnCount.trans (by rw [atFirstPage_regs, hs.txnCount]; exact BitVec.zero_add _)
  · rw [hmem]
    exact memByte_memWrite_outside _ _ (by rwa [← htake] at ha)

/-- Settles O53: the run of READ_PAGE over a channel with its answers prepared. -/
theorem readPageDeliversThePage : Obligations.ReadPageDeliversThePage := by
  intro s bs b r rest hs hrange hbusy hready hmax hlen hdev
  rw [← readScript_responses s.params.profile s.regs.startPage.toNat] at hdev
  obtain ⟨c, hans⟩ := answers_of_prepared hdev (readScript_lengths hlen)
  obtain ⟨t, hrun, hend, hdone, hcount, htxn, hchan, hread, hout⟩ :=
    run_readPage hs hrange hbusy hready hmax hlen hans
  refine ⟨t, hrun, hend, hdone, hcount, htxn, ?_, hread, hout⟩
  rw [hchan, answers_sent hans, readScript_frames]

/-! ### READ_RANGE -/

/-- A range command with word `w`, alone on a sound machine, is in the phase `ph` that begins each of its pages, over a
device whose status byte `b` reports Ready within the budget. -/
structure AtPage (ph : Phase) (w : Word) (b : Byte) (s : State) : Prop where
  params_wf : s.params.wf = true
  race : s.race = []
  mem_wf : memWf s.mem = true
  phase : s.seq.phase = ph
  word : s.seq.word = w
  onPage : OnPage s
  attempts : 0 < s.regs.maxAttempts.toNat
  ready : ReportsReady s b

theorem AtPage.rowFits {ph : Phase} {w : Word} {b : Byte} (h : AtPage ph w b s) :
    rowFits s.params.profile s.seq.cur = true := h.onPage.rowFits h.params_wf

/-- START of a range command whose range fits is at its first page. -/
theorem atPage_atFirstPage {ph : Phase} {w : Word} {b : Byte} (hs : Accepted w s) (hw : w = 0x20 ∨ w = 0x21)
    (hrange : rangeOk s s.regs.startPage.toNat s.regs.pageCount.toNat = true) (hpos : 0 < s.regs.pageCount.toNat)
    (hready : ReportsReady s b) (hmax : s.regs.maxAttempts ≠ 0) :
    AtPage ph w b (atFirstPage ph s) where
  params_wf := hs.params_wf
  race := hs.race
  mem_wf := hs.mem_wf
  phase := rfl
  word := hs.word
  onPage := by
    have hwant : pagesWanted s = s.regs.pageCount.toNat := if_pos (by rw [hs.word]; exact hw)
    exact onPage_atFirstPage (hwant ▸ hrange) (hwant ▸ hpos) hs.pagesDone
  attempts := Nat.pos_of_ne_zero fun hz => hmax (BitVec.eq_of_toNat_eq hz)
  ready := hready

/-- After a page that is not the last, the command is at its next page (R234). -/
theorem AtPage.next {ph : Phase} {w : Word} {b : Byte} {n : Nat} {c : Channel} {x : Memory} (h : AtPage ph w b s)
    (hw : w = 0x20 ∨ w = 0x21) (hnext : s.regs.pagesDone + 1 ≠ s.regs.pageCount) (hprog : Progress s 1 n c x t)
    (hx : memWf x = true) (hph : t.seq.phase = ph) : AtPage ph w b t where
  params_wf := by rw [hprog.host.params]; exact h.params_wf
  race := hprog.host.race.trans h.race
  mem_wf := by rw [hprog.mem]; exact hx
  phase := hph
  word := hprog.host.word.trans h.word
  onPage := (h.onPage.next (by rwa [h.word]) hnext).of_kept ⟨hprog.host.params, hprog.host.word, hprog.cur,
    hprog.host.startPage, hprog.host.pageCount, hprog.host.bufAddr, hprog.host.bufLen, hprog.pagesDone⟩
  attempts := by rw [hprog.host.maxAttempts]; exact h.attempts
  ready := reportsReady_of_kept h.ready hprog.host

/-- The slots of a range stand side by side (R73, R233). -/
theorem slotAddr_progress {p n : Nat} {c : Channel} {x : Memory} (hon : OnPage s) (hprog : Progress s p n c x t) :
    slotAddr t = slotAddr s + p * s.params.profile.pageSizeBytes := by
  have hcur := hon.cur_eq
  rw [slotAddr, slotAddr, hprog.host.bufAddr, hprog.host.startPage, hprog.host.params, hprog.cur,
    Nat.sub_add_comm (by omega), Nat.add_mul, Nat.add_assoc]

/-- One page of READ_RANGE over a device that is ready at the first read: three steps, with the page in its slot. -/
theorem controllerRun_readTurn {b : Byte} {r : List Byte} {c : Channel} (h : AtPage .rdSelect 0x20 b s)
    (hans : Answers s.params.profile s.chan (readScript s.params.profile s.seq.cur [] b r) c) :
    ∃ v, ControllerRun 3 s (pageComplete v) ∧
      Progress s 0 3 c (memWrite s.mem (slotAddr s) (r.take s.params.profile.pageSizeBytes)) v := by
  obtain ⟨v, hrun, hprog, -⟩ := controllerRun_readPage h.phase h.rowFits h.onPage.slotFits (List.forall_mem_nil _)
    h.ready h.attempts hans
  have hstore := hprog.storePage r (hprog.host.race.trans h.race)
  rw [slotAddr_of_kept hprog.pageKept, hprog.host.params] at hstore
  exact ⟨_, hrun, hstore⟩

/-- The frames that read the pages from `p` on, each with its response (R233). -/
def readScripts (P : Profile) (b : Byte) : Nat → List (List Byte) → List (Instr × List Byte)
  | _, [] => []
  | p, r :: pages => readScript P p [] b r ++ readScripts P b (p + 1) pages

theorem readScripts_append (P : Profile) (b : Byte) (pages : List (List Byte)) (r : List Byte) (p : Nat) :
    readScripts P b p (pages ++ [r]) = readScripts P b p pages ++ readScript P (p + pages.length) [] b r := by
  induction pages generalizing p with
  | nil => simp [readScripts]
  | cons q pages ih => simp [readScripts, ih, Nat.add_assoc, Nat.add_comm 1]

theorem readScripts_responses (P : Profile) (b : Byte) (pages : List (List Byte)) (p : Nat) :
    (readScripts P b p pages).map (fun e => Answer.bytes e.2)
      = pages.flatMap fun r => [.bytes [], .bytes [b], .bytes r] := by
  induction pages generalizing p with
  | nil => rfl
  | cons r pages ih => rw [readScripts, List.map_append, readScript_responses, ih]; rfl

theorem readScripts_frames (P : Profile) (b : Byte) (pages : List (List Byte)) (p : Nat) :
    (readScripts P b p pages).map Prod.fst
      = (List.range pages.length).flatMap fun i => [.fPageReadToCache (p + i), statusRead P, .fReadFromCache] := by
  induction pages generalizing p with
  | nil => rfl
  | cons r pages ih =>
    rw [readScripts, List.map_append, readScript_frames, ih, List.length_cons, List.range_succ_eq_map, List.flatMap_cons,
      List.flatMap_map]
    simp only [Nat.succ_eq_add_one, Nat.add_assoc, Nat.add_comm 1]
    rfl

theorem readScripts_lengths {P : Profile} {b : Byte} {pages : List (List Byte)} (hlen : ∀ r ∈ pages, r.length = P.cu)
    {p : Nat} : ∀ e ∈ readScripts P b p pages, e.2.length = respLen P e.1 := by
  induction pages generalizing p with
  | nil => exact List.forall_mem_nil _
  | cons r pages ih =>
    obtain ⟨hr, hpages⟩ := List.forall_mem_cons.mp hlen
    exact List.forall_mem_append.mpr ⟨readScript_lengths hr, ih hpages⟩

/-- The bytes that the pages leave in the buffer, slot after slot. -/
def pageBytes (P : Profile) (pages : List (List Byte)) : List (List Byte) := pages.map (·.take P.pageSizeBytes)

theorem length_pageBytes {P : Profile} {pages : List (List Byte)} (hlen : ∀ r ∈ pages, r.length = P.cu) :
    ∀ d ∈ pageBytes P pages, d.length = P.pageSizeBytes := by
  intro d hd
  obtain ⟨r, hr, rfl⟩ := List.mem_map.mp hd
  exact length_take_page (hlen r hr)

theorem memWrite_pageBytes_cons {P : Profile} {r : List Byte} (pages : List (List Byte)) (m : Memory) (a : Nat)
    (hr : r.length = P.cu) :
    memWrite (memWrite m a (r.take P.pageSizeBytes)) (a + P.pageSizeBytes) (pageBytes P pages).flatten
      = memWrite m a (pageBytes P (r :: pages)).flatten := by
  rw [pageBytes, pageBytes, List.map_cons, List.flatten_cons, memWrite_append, length_take_page hr]

/-- Pages of READ_RANGE before its last one: each is stored in its own slot, and the command is at the page after them
(R232, R233, R234). -/
theorem controllerRun_readPages {b : Byte} {pages : List (List Byte)} {c : Channel} (h : AtPage .rdSelect 0x20 b s)
    (hmore : s.regs.pagesDone.toNat + pages.length < s.regs.pageCount.toNat)
    (hlen : ∀ r ∈ pages, r.length = s.params.profile.cu)
    (hans : Answers s.params.profile s.chan (readScripts s.params.profile b s.seq.cur pages) c) :
    ∃ t, ControllerRun (3 * pages.length) s t ∧ AtPage .rdSelect 0x20 b t ∧
      Progress s pages.length (3 * pages.length) c
        (memWrite s.mem (slotAddr s) (pageBytes s.params.profile pages).flatten) t := by
  induction pages generalizing s with
  | nil => obtain rfl := hans; exact ⟨s, rfl, h, .refl s⟩
  | cons r pages ih =>
    rw [List.length_cons] at hmore ⊢
    obtain ⟨hr, hpages⟩ := List.forall_mem_cons.mp hlen
    obtain ⟨c₁, hpage, hrest⟩ := answers_append.mp hans
    obtain ⟨v, hrun, hprog⟩ := controllerRun_readTurn h hpage
    have hnext : s.regs.pagesDone + 1 ≠ s.regs.pageCount := by bv_omega
    rw [pageComplete_next (ph := .rdSelect)
      (by rw [hprog.pageKept.pagesDone, hprog.host.pageCount]; exact hnext)
      (.inl ⟨hprog.host.word.trans h.word, rfl⟩)] at hrun
    have hturn := hprog.countPage.setPhase .rdSelect
    have hat := h.next (.inl rfl) hnext hturn (memWf_memWrite _ _ _ h.mem_wf) rfl
    have hdone := (congrArg BitVec.toNat hturn.pagesDone).trans h.onPage.toNat_pagesDone_succ
    obtain ⟨t, hrun', hat', hprog'⟩ := ih hat (by rw [hdone, hturn.host.pageCount]; omega)
      (by rw [hturn.host.params]; exact hpages)
      (by rw [hturn.host.params, hturn.chan, hturn.cur]; exact hrest)
    refine ⟨t, ?_, hat', ?_⟩
    · rw [Nat.mul_succ, Nat.add_comm]
      exact hrun.trans hrun'
    · have htrans := hturn.trans hprog'
      rw [hturn.mem, slotAddr_progress h.onPage hturn, Nat.one_mul, hturn.host.params,
        memWrite_pageBytes_cons pages _ _ hr] at htrans
      exact htrans.cast (by omega) (by omega)

/-- READ_RANGE from one of its pages to its end. -/
theorem controllerRun_readToEnd {b : Byte} {pages : List (List Byte)} {r : List Byte} {c : Channel}
    (h : AtPage .rdSelect 0x20 b s) (hcount : s.regs.pagesDone.toNat + (pages.length + 1) = s.regs.pageCount.toNat)
    (hlen : ∀ r ∈ pages, r.length = s.params.profile.cu)
    (hans : Answers s.params.profile s.chan (readScripts s.params.profile b s.seq.cur (pages ++ [r])) c) :
    ∃ t, ControllerRun (3 * pages.length + 3) s t ∧ EndedOk t ∧
      Progress s (pages.length + 1) (3 * pages.length + 3) c
        (memWrite s.mem (slotAddr s) (pageBytes s.params.profile (pages ++ [r])).flatten) t := by
  rw [readScripts_append] at hans
  obtain ⟨c₁, hpages, hlast⟩ := answers_append.mp hans
  obtain ⟨u, hrun, hat, hprog⟩ := controllerRun_readPages h (by omega) hlen hpages
  obtain ⟨v, hrun', hprog'⟩ := controllerRun_readTurn (r := r) (c := c) hat
    (by rw [hprog.host.params, hprog.chan, hprog.cur]; exact hlast)
  have hdone : v.regs.pagesDone + 1 = v.regs.pageCount := by
    rw [hprog'.pageKept.pagesDone, hprog'.host.pageCount, hprog.pagesDone, hprog.host.pageCount]
    bv_omega
  rw [pageComplete_last hdone] at hrun'
  have htrans := hprog.trans hprog'.countPage.finishOk
  rw [hprog.mem, slotAddr_progress h.onPage hprog, hprog.host.params] at htrans
  refine ⟨_, hrun.trans hrun', endedOk_finishOk _, ?_⟩
  rw [pageBytes, List.map_append, List.flatten_append, memWrite_append, ← pageBytes,
    length_flatten_blocks (length_pageBytes hlen), pageBytes, List.length_map, List.map_singleton, List.flatten_singleton]
  exact htrans

/-- Settles O56: an empty range ends in START; any other is START and the run over its pages, which stand side by side
in the buffer. -/
theorem readRangeFillsTheBuffer : Obligations.ReadRangeFillsTheBuffer := by
  intro s pages b rest hs hcount hrange hready hmax hlen hdev
  rcases List.eq_nil_or_concat' pages with rfl | ⟨init, r, rfl⟩
  · have hzero : s.regs.pageCount = 0 := BitVec.eq_of_toNat_eq hcount.symm
    have hstart := controllerStep_start_empty (ph := .rdSelect) hs.phase (i := .readRange) (by rw [hs.word]; rfl)
      (by rw [exec, execReadRange, atMove_regs, hzero]; rfl) hrange
    refine ⟨_, run_of_controllerRun hs.params_wf (.inl hs.inputs) (.one hstart), endedOk_finishOk _,
      hs.pagesDone.trans hzero.symm, hs.txnCount, (List.append_nil _).symm, fun i r h => ?_, fun _ _ => rfl⟩
    cases h
  · rw [List.length_append, List.length_singleton] at hcount hrange ⊢
    have hstart := controllerStep_start_pages hs.phase (i := .readRange) (ph := .rdSelect) (by rw [hs.word]; rfl) rfl
      (hcount ▸ hrange) (hcount ▸ Nat.succ_pos _)
    have hat := atPage_atFirstPage (ph := .rdSelect) hs (.inl rfl) (hcount ▸ hrange) (hcount ▸ Nat.succ_pos _) hready hmax
    rw [← readScripts_responses s.params.profile b _ s.regs.startPage.toNat] at hdev
    obtain ⟨c, hans⟩ := answers_of_prepared hdev (readScripts_lengths hlen)
    obtain ⟨t, hrun, hend, hprog⟩ := controllerRun_readToEnd hat
      (by rw [atFirstPage_regs, hs.pagesDone, ← hcount]; exact Nat.zero_add _)
      (fun q hq => hlen q (List.mem_append_left _ hq)) hans
    have hblocks := length_pageBytes hlen
    have hmem : t.mem = memWrite s.mem s.regs.bufAddr.toNat (pageBytes s.params.profile (init ++ [r])).flatten := by
      rw [hprog.mem, slotAddr_atFirstPage]
      rfl
    refine ⟨t, run_of_controllerRun hs.params_wf (.inl hs.inputs) ⟨_, hstart, hrun⟩, hend, ?_, ?_, ?_, fun i q hq => ?_,
      fun a ha => ?_⟩
    · rw [hprog.pagesDone, atFirstPage_regs, hs.pagesDone, hcount]
      simp
    · rw [hprog.txnCount, atFirstPage_regs, hs.txnCount]
      exact BitVec.zero_add _
    · rw [hprog.chan, answers_sent hans, readScripts_frames, List.length_append]
      rfl
    · rw [hmem]
      exact memRead_memWrite_blocks hblocks hs.mem_wf (by rw [pageBytes, List.getElem?_map, hq]; rfl)
    · rw [hmem]
      refine memByte_memWrite_outside _ _ ?_
      rwa [length_flatten_blocks hblocks, pageBytes, List.length_map, List.length_append]

end Sys2Proof.Machine
end

section
/-! SUPPORT. Programming pages (R195 to R198, R233, R236): one page from its write-enable to its end, then a range page
after page, each loaded from its own slot. -/

namespace Sys2Proof.Machine

variable {s t : State}

/-! ### One page -/

/-- The frames that program page `p` with the unit `d`, each with its response: write-enable, load, execute, and the poll
that meets `bs` and then `b` (R196 to R198). -/
def programScript (P : Profile) (p : Nat) (d : List Byte) (bs : List Byte) (b : Byte) : List (Instr × List Byte) :=
  (.fWriteEnable, []) :: (.fProgramLoad d, []) :: (.fProgramExecute p, []) :: statusScript P (bs ++ [b])

theorem programScript_responses (P : Profile) (p : Nat) (d : List Byte) (bs : List Byte) (b : Byte) :
    (programScript P p d bs b).map (fun e => Answer.bytes e.2)
      = [.bytes [], .bytes [], .bytes []] ++ statusAnswers (bs ++ [b]) := by
  simp [programScript, statusScript_responses]

theorem programScript_frames (P : Profile) (p : Nat) (d : List Byte) (bs : List Byte) (b : Byte) :
    (programScript P p d bs b).map Prod.fst
      = [.fWriteEnable, .fProgramLoad d, .fProgramExecute p] ++ List.replicate (bs.length + 1) (statusRead P) := by
  simp [programScript, statusScript_frames]

theorem programScript_lengths (P : Profile) (p : Nat) (d : List Byte) (bs : List Byte) (b : Byte) :
    ∀ e ∈ programScript P p d bs b, e.2.length = respLen P e.1 := by
  simpa [programScript, respLen] using statusScript_lengths P (bs ++ [b])

theorem continuePoll_prog (h : s.seq.ret = .prog) : continuePoll s = pageComplete s := by rw [continuePoll, h]

theorem progress_load (d : List Byte) (s : State) :
    Progress s 0 1 (channelAfter s.params.profile s.chan (.fProgramLoad d)) s.mem
      (afterFrame (.fProgramLoad d) (countDraw (setScratch d s))) :=
  { progress_afterFrame (.fProgramLoad d) (countDraw (setScratch d s)) with
    host := .of_side (((hostSideKept_setScratch d s).trans (hostSideKept_countDraw _)).trans
      (hostSideKept_afterFrame _ _)) }

/-- Write-enable and program-load, which lead to WR_EXEC with memory as it was (R196, R197). -/
theorem controllerRun_load {c : Channel} (hp : s.seq.phase = .wrEnable) (hword : cmdCode s.seq.word ≠ 0x12)
    (hfit : slotFits s = true)
    (hans : Answers s.params.profile s.chan [(.fWriteEnable, []), (.fProgramLoad (loadUnit s), [])] c) :
    ∃ u, ControllerRun 2 s u ∧ u.seq.phase = .wrExec ∧ Progress s 0 2 c s.mem u := by
  obtain ⟨henable, hload, rfl⟩ := hans
  have hprog := ((progress_afterFrame .fWriteEnable (atMove s)).of_atMove.setPhase .wrLoad).atMove
  have hload' := progress_load (loadUnit s) (atMove (setPhase .wrLoad (afterFrame .fWriteEnable (atMove s))))
  exact ⟨_, ⟨_, controllerStep_wrEnable (s := atMove s) hp hword henable, .one (controllerStep_wrLoad
    (s := atMove (setPhase .wrLoad (afterFrame .fWriteEnable (atMove s)))) rfl hfit hload)⟩, rfl,
    (hprog.trans hload').setPhase .wrExec⟩

/-- A page is programmed in `2N + 4` steps after `N` busy reads, and its end is the last of them (R196 to R198). -/
theorem controllerRun_programPage {bs : List Byte} {b : Byte} {c : Channel} (hp : s.seq.phase = .wrEnable)
    (hword : cmdCode s.seq.word ≠ 0x12) (hrow : rowFits s.params.profile s.seq.cur = true) (hfit : slotFits s = true)
    (hbusy : AllBusy s.params.profile bs) (hready : ReportsReady s b) (hmax : bs.length < s.regs.maxAttempts.toNat)
    (hans : Answers s.params.profile s.chan (programScript s.params.profile s.seq.cur (loadUnit s) bs b) c) :
    ∃ v, ControllerRun (2 * bs.length + 4) s (pageComplete v) ∧ Progress s 0 (bs.length + 4) c s.mem v ∧
      v.regs.pollCount.toNat = bs.length + 1 := by
  obtain ⟨henable, hload, hexecute, hpoll⟩ := hans
  obtain ⟨u, hrun, hpu, hprog⟩ := controllerRun_load hp hword hfit ⟨henable, hload, rfl⟩
  have hcur : (atMove u).seq.cur = s.seq.cur := hprog.cur
  have hstep := controllerStep_wrExec (s := atMove u) hpu (by rw [hcur, atMove_params, hprog.host.params]; exact hrow)
    (by rw [hcur, frameAnswer, atMove_params, atMove_chan, hprog.host.params, hprog.chan]; exact hexecute)
  have hprog' := hprog.trans ((progress_afterFrame (.fProgramExecute s.seq.cur) (atMove u)).of_atMove.beginPoll .prog)
  rw [atMove_mem, hprog.mem, atMove_params, atMove_chan, hprog.host.params, hprog.chan] at hprog'
  rw [hcur] at hstep
  obtain ⟨v, hrun', hseq, hcount, hpolled⟩ := controllerRun_poll (bs := bs) (b := b) (c := c) (s := beginPoll .prog _) rfl
    (by rw [hprog'.host.params]; exact hbusy) (reportsReady_of_kept hready hprog'.host)
    (by rw [hprog'.host.maxAttempts]; exact (Nat.zero_add _).symm ▸ hmax)
    (by rw [hprog'.host.params, hprog'.chan]; exact hpoll)
  have hend := hprog'.trans hpolled
  rw [hprog'.mem] at hend
  rw [continuePoll_prog (by rw [hseq]; rfl)] at hrun'
  refine ⟨v, ?_, hend.cast (by omega) (by omega), hcount.trans (Nat.zero_add _)⟩
  have := hrun.trans (n := 2 * bs.length + 1 + 1) ⟨_, hstep, hrun'⟩
  rwa [Nat.add_comm] at this

/-! ### PROGRAM_RANGE -/

/-- The frames that program the `n` pages from page `k` of the range on, each page from its own slot (R233, R236). -/
def programScripts (s : State) (b : Byte) (k n : Nat) : List (Instr × List Byte) :=
  (List.range' k n).flatMap fun i => programScript s.params.profile (s.regs.startPage.toNat + i) (slotUnit s i) [] b

theorem programScripts_succ (s : State) (b : Byte) (k n : Nat) : programScripts s b k (n + 1)
    = programScript s.params.profile (s.regs.startPage.toNat + k) (slotUnit s k) [] b ++ programScripts s b (k + 1) n := by
  rw [programScripts, List.range'_succ, List.flatMap_cons]
  rfl

theorem programScripts_concat (s : State) (b : Byte) (k n : Nat) : programScripts s b k (n + 1) = programScripts s b k n
    ++ programScript s.params.profile (s.regs.startPage.toNat + (k + n)) (slotUnit s (k + n)) [] b := by
  simp [programScripts, List.range'_concat]

theorem slotUnit_of_kept (h : HostKept s t) (hmem : t.mem = s.mem) : slotUnit t = slotUnit s := by
  funext i
  rw [slotUnit, slotUnit, h.params, h.bufAddr, hmem]

theorem programScripts_of_kept (b : Byte) (k n : Nat) (h : HostKept s t) (hmem : t.mem = s.mem) :
    programScripts t b k n = programScripts s b k n := by
  rw [programScripts, programScripts, slotUnit_of_kept h hmem, h.params, h.startPage]

theorem programScripts_responses (s : State) (b : Byte) (n : Nat) :
    (programScripts s b 0 n).map (fun e => Answer.bytes e.2)
      = (List.range n).flatMap fun _ => [.bytes [], .bytes [], .bytes [], .bytes [b]] := by
  rw [programScripts, List.map_flatMap, List.range_eq_range']
  simp only [programScript_responses]
  rfl

theorem programScripts_frames (s : State) (b : Byte) (n : Nat) :
    (programScripts s b 0 n).map Prod.fst = (List.range n).flatMap fun i =>
      [.fWriteEnable, .fProgramLoad (slotUnit s i), .fProgramExecute (s.regs.startPage.toNat + i),
        statusRead s.params.profile] := by
  rw [programScripts, List.map_flatMap, List.range_eq_range']
  simp only [programScript_frames]
  rfl

theorem programScripts_lengths (s : State) (b : Byte) (k n : Nat) :
    ∀ e ∈ programScripts s b k n, e.2.length = respLen s.params.profile e.1 := by
  intro e he
  obtain ⟨i, -, he⟩ := List.mem_flatMap.mp he
  exact programScript_lengths _ _ _ _ _ e he

/-- One page of PROGRAM_RANGE over a device that is ready at the first read: four steps, with memory as it was. -/
theorem controllerRun_programTurn {b : Byte} {c : Channel} (h : AtPage .wrEnable 0x21 b s)
    (hans : Answers s.params.profile s.chan (programScript s.params.profile
      (s.regs.startPage.toNat + s.regs.pagesDone.toNat) (slotUnit s s.regs.pagesDone.toNat) [] b) c) :
    ∃ v, ControllerRun 4 s (pageComplete v) ∧ Progress s 0 4 c s.mem v := by
  have hcur := h.onPage.cur_eq
  have hunit : loadUnit s = slotUnit s s.regs.pagesDone.toNat := by
    rw [loadUnit_of_no_race h.race, hcur, Nat.add_sub_cancel_left]
  rw [← hunit, ← hcur] at hans
  obtain ⟨v, hrun, hprog, -⟩ := controllerRun_programPage h.phase (by rw [h.word]; decide) h.rowFits h.onPage.slotFits
    (List.forall_mem_nil _) h.ready h.attempts hans
  exact ⟨v, hrun, hprog⟩

/-- Pages of PROGRAM_RANGE before its last one: the command is at the page after them, with memory as it was (R233,
R234, R236). -/
theorem controllerRun_programPages {b : Byte} {n : Nat} {c : Channel} (h : AtPage .wrEnable 0x21 b s)
    (hmore : s.regs.pagesDone.toNat + n < s.regs.pageCount.toNat)
    (hans : Answers s.params.profile s.chan (programScripts s b s.regs.pagesDone.toNat n) c) :
    ∃ t, ControllerRun (4 * n) s t ∧ AtPage .wrEnable 0x21 b t ∧ Progress s n (4 * n) c s.mem t := by
  induction n generalizing s with
  | zero => obtain rfl := hans; exact ⟨s, rfl, h, .refl s⟩
  | succ n ih =>
    rw [programScripts_succ] at hans
    obtain ⟨c₁, hpage, hrest⟩ := answers_append.mp hans
    obtain ⟨v, hrun, hprog⟩ := controllerRun_programTurn h hpage
    have hnext : s.regs.pagesDone + 1 ≠ s.regs.pageCount := by bv_omega
    rw [pageComplete_next (ph := .wrEnable)
      (by rw [hprog.pageKept.pagesDone, hprog.host.pageCount]; exact hnext)
      (.inr ⟨hprog.host.word.trans h.word, rfl⟩)] at hrun
    have hturn := hprog.countPage.setPhase .wrEnable
    have hat := h.next (.inr rfl) hnext hturn h.mem_wf rfl
    have hdone := (congrArg BitVec.toNat hturn.pagesDone).trans h.onPage.toNat_pagesDone_succ
    obtain ⟨t, hrun', hat', hprog'⟩ := ih hat (by rw [hdone, hturn.host.pageCount]; omega)
      (by rw [hdone, programScripts_of_kept b _ _ hturn.host hturn.mem, hturn.host.params, hturn.chan]; exact hrest)
    refine ⟨t, ?_, hat', ?_⟩
    · rw [Nat.mul_succ, Nat.add_comm]
      exact hrun.trans hrun'
    · have htrans := hturn.trans hprog'
      rw [hturn.mem] at htrans
      exact htrans.cast (by omega) (by omega)

/-- PROGRAM_RANGE from its first page to its end. -/
theorem controllerRun_programToEnd {b : Byte} {n : Nat} {c : Channel} (h : AtPage .wrEnable 0x21 b s)
    (hdone : s.regs.pagesDone = 0) (hcount : n + 1 = s.regs.pageCount.toNat)
    (hans : Answers s.params.profile s.chan (programScripts s b 0 (n + 1)) c) :
    ∃ t, ControllerRun (4 * n + 4) s t ∧ EndedOk t ∧ Progress s (n + 1) (4 * n + 4) c s.mem t := by
  rw [programScripts_concat, Nat.zero_add] at hans
  obtain ⟨c₁, hpages, hlast⟩ := answers_append.mp hans
  have hzero : s.regs.pagesDone.toNat = 0 := congrArg BitVec.toNat hdone
  obtain ⟨u, hrun, hat, hprog⟩ := controllerRun_programPages (n := n) h (by omega) (by rw [hzero]; exact hpages)
  have hdone' : u.regs.pagesDone = BitVec.ofNat 32 n := by rw [hprog.pagesDone, hdone]; exact BitVec.zero_add _
  have hn : u.regs.pagesDone.toNat = n := by rw [hdone']; bv_omega
  obtain ⟨v, hrun', hprog'⟩ := controllerRun_programTurn (c := c) hat (by
    rw [hn, slotUnit_of_kept hprog.host hprog.mem, hprog.host.params, hprog.host.startPage, hprog.chan]; exact hlast)
  have hend : v.regs.pagesDone + 1 = v.regs.pageCount := by
    rw [hprog'.pageKept.pagesDone, hprog'.host.pageCount, hdone', hprog.host.pageCount]
    bv_omega
  rw [pageComplete_last hend] at hrun'
  have htrans := hprog.trans hprog'.countPage.finishOk
  rw [hprog.mem] at htrans
  exact ⟨_, hrun.trans hrun', endedOk_finishOk _, htrans⟩

/-- Settles O58: an empty range ends in START; any other is START and the run over its pages, none of which stores. -/
theorem programRangeSendsThePages : Obligations.ProgramRangeSendsThePages := by
  intro s b rest hs hrange hready hmax hdev
  rcases hn : s.regs.pageCount.toNat with - | n
  · have hzero : s.regs.pageCount = 0 := BitVec.eq_of_toNat_eq hn
    have hstart := controllerStep_start_empty (ph := .wrEnable) hs.phase (i := .programRange) (by rw [hs.word]; rfl)
      (by rw [exec, execProgramRange, atMove_regs, hzero]; rfl) (hn ▸ hrange)
    exact ⟨_, run_of_controllerRun hs.params_wf (.inl hs.inputs) (.one hstart), endedOk_finishOk _,
      hs.pagesDone.trans hzero.symm, hs.txnCount, (List.append_nil _).symm, rfl⟩
  · have hpos : 0 < s.regs.pageCount.toNat := hn ▸ Nat.succ_pos n
    have hstart := controllerStep_start_pages hs.phase (i := .programRange) (ph := .wrEnable) (by rw [hs.word]; rfl) rfl
      hrange hpos
    have hat := atPage_atFirstPage (ph := .wrEnable) hs (.inr rfl) hrange hpos hready hmax
    rw [hn, ← programScripts_responses s] at hdev
    obtain ⟨c, hans⟩ := answers_of_prepared hdev (programScripts_lengths s b 0 (n + 1))
    obtain ⟨t, hrun, hend, hprog⟩ := controllerRun_programToEnd hat hs.pagesDone hn.symm hans
    refine ⟨t, run_of_controllerRun hs.params_wf (.inl hs.inputs) ⟨_, hstart, hrun⟩, hend, ?_, ?_, ?_, hprog.mem⟩
    · rw [hprog.pagesDone, atFirstPage_regs, hs.pagesDone, ← hn]
      simp
    · rw [hprog.txnCount, atFirstPage_regs, hs.txnCount]
      exact BitVec.zero_add _
    · rw [hprog.chan, answers_sent hans, programScripts_frames]

end Sys2Proof.Machine
end

section
/-! SUPPORT. The reference device of R95 to R97 behind the channel, and a page programmed on it and read back (R238). -/

namespace Sys2Proof.Machine

variable {s t : State}

/-! ### What the device makes of a frame (R97, R136) -/

theorem opcodes_nodup {P : Profile} (h : P.opcodesDistinct = true) : P.opcodes.Nodup := of_decide_eq_true h

/-- No opcode is one that stands before it in the opcode table. -/
theorem opcodes_reverse_nodup {P : Profile} (h : P.opcodesDistinct = true) :
    [P.opReadId, P.opWriteDisable, P.opWriteEnable, P.opReset, P.opSetStatus, P.opGetStatus, P.opBlockErase,
      P.opProgramExecute, P.opProgramLoad, P.opReadFromCache, P.opPageReadToCache].Nodup :=
  List.nodup_reverse.mpr (opcodes_nodup h)

@[simp] theorem allZero_col (P : Profile) : allZero (col P) = true := allZero_zeros _

/-- Where the opcodes are distinct, a frame is decoded from its own bytes (R125 to R136). -/
theorem decodeFrame_encode {P : Profile} {i : Instr} (hdistinct : P.opcodesDistinct = true) (hwf : i.wf P = true)
    (hf : commandCode i = none) (rest : List Byte) : decodeFrame P (encode P i ++ rest) = .ok (i, rest) := by
  have hne := opcodes_reverse_nodup hdistinct
  simp only [List.nodup_cons, List.mem_cons, not_or] at hne
  have hbyte (b : Byte) (l : List Byte) (k : List Byte → List Byte → Except DecodeError (Instr × List Byte)) :
      withField 1 (b :: l) k = k [b] l := withField_append [b] l rfl k
  cases i with
  | fPageReadToCache p => simp [encode, decodeFrame, withRow_append P p rest _ hwf]
  | fReadFromCache =>
    have hzeros := withZeros_append (P.colAddrBytes + P.cacheReadDummyBytes) rest .fReadFromCache
    rw [← zeros_append] at hzeros
    simpa [encode, decodeFrame, hne, col] using hzeros
  | fProgramLoad d =>
    have hlen : d.length = P.cu := of_decide_eq_true hwf
    simp [encode, decodeFrame, hne, withField_append (col P) _ (col_length P), withField_append d rest hlen]
  | fProgramExecute p => simp [encode, decodeFrame, hne, withRow_append P p rest _ hwf]
  | fBlockErase p => simp [encode, decodeFrame, hne, withRow_append P p rest _ hwf]
  | fGetStatus a => simp [encode, decodeFrame, hne, hbyte]
  | fSetStatus a v => simp [encode, decodeFrame, hne, hbyte]
  | fReset => simp [encode, decodeFrame, hne]
  | fWriteEnable => simp [encode, decodeFrame, hne]
  | fWriteDisable => simp [encode, decodeFrame, hne]
  | fReadId => simp [encode, decodeFrame, hne, withZeros_append]
  | _ => cases hf

/-- A frame with an encoding is no program-load of fewer bytes than the cache has. -/
theorem rdShortLoad_encode {P : Profile} {i : Instr} (hdistinct : P.opcodesDistinct = true) (hwf : i.wf P = true)
    (hf : commandCode i = none) : rdShortLoad P (encode P i) = none := by
  have hne := opcodes_nodup hdistinct
  have hrev := opcodes_reverse_nodup hdistinct
  simp only [Profile.opcodes, List.nodup_cons, List.mem_cons, not_or] at hne hrev
  cases i with
  | fProgramLoad d =>
    have hlen : d.length = P.cu := of_decide_eq_true hwf
    simp [encode, rdShortLoad, takeExact_append _ d (col_length P), hlen]
  | fPageReadToCache p => simp [encode, rdShortLoad, hne]
  | fReadFromCache => simp [encode, rdShortLoad, hne]
  | fProgramExecute p => simp [encode, rdShortLoad, hrev]
  | fBlockErase p => simp [encode, rdShortLoad, hrev]
  | fGetStatus a => simp [encode, rdShortLoad, hrev]
  | fSetStatus a v => simp [encode, rdShortLoad, hrev]
  | fReset => simp [encode, rdShortLoad, hrev]
  | fWriteEnable => simp [encode, rdShortLoad, hrev]
  | fWriteDisable => simp [encode, rdShortLoad, hrev]
  | fReadId => simp [encode, rdShortLoad, hrev]
  | _ => cases hf

/-- A device with an empty `chan_err` does with a frame's bytes what R97 says of the frame. -/
theorem rdTransaction_encode {P : Profile} {rd : RefDevice} {i : Instr} (hdistinct : P.opcodesDistinct = true)
    (hwf : i.wf P = true) (hf : commandCode i = none) (herr : rd.chanErr = []) :
    rdTransaction P rd (encode P i) = rdFrame P { rd with txns := rd.txns + 1 } i := by
  have hdec := decodeFrame_encode hdistinct hwf hf []
  rw [List.append_nil] at hdec
  simp [rdTransaction, herr, rdAnswer, rdShortLoad_encode hdistinct hwf hf, hdec]

/-! ### The device behind the channel (R95, R96) -/

theorem rdExecute_chanErr (rd : RefDevice) (p : Nat) : (rdExecute rd p).chanErr = rd.chanErr := by
  simp only [rdExecute, rdStart]
  split
  · split <;> rfl
  · rfl

theorem rdErase_chanErr (rd : RefDevice) (p : Nat) : (rdErase rd p).chanErr = rd.chanErr := by
  simp only [rdErase, rdStart]
  split
  · split <;> rfl
  · rfl

/-- No frame changes which transactions fail. -/
theorem rdFrame_chanErr (P : Profile) (rd : RefDevice) (i : Instr) : (rdFrame P rd i).2.chanErr = rd.chanErr := by
  cases i with
  | fProgramExecute p => exact rdExecute_chanErr rd p
  | fBlockErase p => exact rdErase_chanErr rd p
  | fGetStatus a =>
    rw [rdFrame]
    split <;> rfl
  | _ => rfl

/-- The device `rd` answers the frames of `l` in order, each with the response beside it, and is `rd'` then. -/
def RdAnswers (P : Profile) : RefDevice → List (Instr × List Byte) → RefDevice → Prop
  | rd, [], rd' => rd' = rd
  | rd, e :: l, rd' => ∃ rd₁, rdFrame P { rd with txns := rd.txns + 1 } e.1 = (.bytes e.2, rd₁) ∧ RdAnswers P rd₁ l rd'

/-- What the reference device answers, the channel in front of it answers. -/
theorem answers_of_rdAnswers {P : Profile} {l : List (Instr × List Byte)} {rd rd' : RefDevice} {c : Channel}
    (hdistinct : P.opcodesDistinct = true) (hdev : c.dev = .reference rd) (herr : rd.chanErr = [])
    (hframes : ∀ e ∈ l, e.1.wf P = true ∧ commandCode e.1 = none ∧ e.2.length = respLen P e.1)
    (h : RdAnswers P rd l rd') : ∃ c', Answers P c l c' ∧ c'.dev = .reference rd' := by
  induction l generalizing rd c with
  | nil => obtain rfl := h; exact ⟨c, rfl, hdev⟩
  | cons e l ih =>
    obtain ⟨rd₁, hframe, hrest⟩ := h
    obtain ⟨⟨hwf, hf, hlen⟩, hl⟩ := List.forall_mem_cons.mp hframes
    have hreply : deviceReply P c (frameTxn P e.1) = (.bytes e.2, .reference rd₁) := by
      rw [deviceReply, hdev]
      simp only [frameTxn, rdTransaction_encode hdistinct hwf hf herr, hframe]
    have herr₁ : rd₁.chanErr = [] := by
      have := rdFrame_chanErr P { rd with txns := rd.txns + 1 } e.1
      rw [hframe] at this
      exact this.trans herr
    obtain ⟨c', hc', hdev'⟩ := ih (c := channelAfter P c e.1) (congrArg Prod.snd hreply) herr₁ hl hrest
    exact ⟨c', ⟨by rw [hreply]; exact if_pos hlen, hc'⟩, hdev'⟩

/-- The device is never busy and reports no ECC event, and has no latch or failure set. -/
structure Quiet (rd : RefDevice) : Prop where
  busyLeft : rd.busyLeft = 0
  busyScript : rd.busyScript = []
  chanErr : rd.chanErr = []
  eccOf : rd.eccOf = []
  wel : rd.wel = false
  efail : rd.efail = false
  pfail : rd.pfail = false
  ecc : rd.ecc = 0

/-- A quiet device's status byte is 0 (R96). -/
theorem rdFrame_status_of_quiet {P : Profile} {rd : RefDevice} (h : Quiet rd) :
    rdFrame P rd (statusRead P) = (.bytes [0], rd) := by
  obtain ⟨arr, cache, wel, efail, pfail, ecc, busyLeft, feat, id, busyScript, eccOf, pfails, efails, chanErr, txns, ppb⟩ := rd
  obtain ⟨rfl, rfl, rfl, rfl, rfl, rfl, rfl, rfl⟩ := h
  simp [statusRead, rdFrame, rdStatus]

/-- program-execute with the write-enable latch set, of a page that does not fail (R97). -/
theorem rdFrame_execute {P : Profile} {rd : RefDevice} (p : Nat) (hwel : rd.wel = true) (hpfail : rd.pfailPages = []) :
    rdFrame P rd (.fProgramExecute p) = (.bytes [], rdStart { rd with
      arr := (p, rd.cache) :: rd.arr.filter (fun e => e.1 != p), pfail := false, efail := false, ecc := 0
      wel := false }) := by
  simp [rdFrame, rdExecute, hwel, hpfail]

/-- After the frames of a page's program the page holds the unit, and the device is quiet (R97). -/
theorem rdAnswers_program {P : Profile} {rd : RefDevice} {p : Nat} {d : List Byte} (hd : d.length = P.cu)
    (hscript : rd.busyScript = []) (herr : rd.chanErr = []) (hecc : rd.eccOf = []) (hpfail : rd.pfailPages = []) :
    ∃ rd', RdAnswers P rd (programScript P p d [] 0) rd' ∧ Quiet rd' ∧ rdPage P rd' p = d := by
  have hstart : rd.busyScript.headD 0 = 0 ∧ rd.busyScript.tail = [] := by simp [hscript]
  refine ⟨_, ⟨_, rfl, _, rfl, _, rdFrame_execute p rfl hpfail, _, rdFrame_status_of_quiet ?_, rfl⟩, ?_, ?_⟩
  · exact ⟨hstart.1, hstart.2, herr, hecc, rfl, rfl, rfl, rfl⟩
  · exact ⟨hstart.1, hstart.2, herr, hecc, rfl, rfl, rfl, rfl⟩
  · simp [rdPage, rdStart, rdLoad, fill, hd]

/-- A quiet device answers the frames of a page's read with the page (R97). -/
theorem rdAnswers_read {P : Profile} {rd : RefDevice} {p : Nat} {d : List Byte} (hd : d.length = P.cu) (h : Quiet rd)
    (hpage : rdPage P rd p = d) : ∃ rd', RdAnswers P rd (readScript P p [] 0 d) rd' := by
  have hstart : rd.busyScript.headD 0 = 0 ∧ rd.busyScript.tail = [] := by simp [h.busyScript]
  have hecc : (rd.eccOf.lookup p).getD 0 = 0 := by simp [h.eccOf]
  refine ⟨_, _, rfl, _, rdFrame_status_of_quiet ?_, _, Prod.ext (congrArg Answer.bytes ?_) rfl, rfl⟩
  · exact ⟨hstart.1, hstart.2, h.chanErr, h.eccOf, h.wel, rfl, rfl, hecc⟩
  · show (rdPage P rd p).take P.cu = d
    rw [hpage, ← hd, List.take_length]

/-! ### Programming a page and reading it back (R238) -/

/-- A status byte of 0 reports Ready under every well-formed profile and policy (R21, R161). -/
theorem reportsReady_zero (hwf : s.params.wf = true) : ReportsReady s 0 := by
  obtain ⟨-, -, -, -, -, -, -, -, -, -, -, hecc, -⟩ := (profile_wf_iff _).mp ((params_wf_iff _).mp hwf).2.2
  have hmap : s.params.profile.eccMap.lookup 0 = some .noError := of_decide_eq_true hecc
  refine ⟨.noError, ?_⟩
  simp [decodeOutcome, statusBusy, statusEfail, statusPfail, severity, eccField, hmap]

theorem bufAddrField_of_lt {c : Params} {v : Word} (h : v.toNat < c.bufSize) : bufAddrField c v = v := by
  rw [bufAddrField, Nat.mod_eq_of_lt h, BitVec.ofNat_toNat, BitVec.setWidth_eq]

/-- The host moves BUF_ADDR and writes a command to an idle NFC (R29, R45). -/
theorem run_moveBuffer_accept {v w : Word} (hwf : s.params.wf = true) (hb : s.regs.busy = false)
    (hin : s.inputs = [wr .bufAddr v, wr .cmd w]) (hv : v.toNat < s.params.bufSize) :
    Sys2Proof.core.run 2 s
      = .next (acceptCommand w { s with inputs := [], regs := { s.regs with bufAddr := v } }) := by
  have hmove : step s = .next { s with inputs := [wr .cmd w], regs := { s.regs with bufAddr := v } } := by
    have hstep := step_regWrite hwf (by decide) (by decide) hin
    rw [writeOffset_regOffset, writeReg, writeParam_of_idle _ (by exact hb)] at hstep
    rw [hstep]
    exact congrArg (fun a => Host.Outcome.next { s with inputs := [wr .cmd w], regs := { s.regs with bufAddr := a } })
      (bufAddrField_of_lt hv)
  exact (run_succ hmove).trans (run_succ (step_accept hwf hb rfl))

/-- PROGRAM_PAGE of a page in range, planned step by step, whatever device stands behind the channel: it ends after its
frames with memory as it was (R195 to R198). -/
theorem run_programPage {b : Byte} {c : Channel} {rest : List Input} (hwf : s.params.wf = true)
    (hp : s.seq.phase = .start) (hword : s.seq.word = 0x11) (hrace : s.race = []) (hdone : s.regs.pagesDone = 0)
    (hrange : rangeOk s s.regs.startPage.toNat 1 = true) (hready : ReportsReady s b)
    (hmax : 0 < s.regs.maxAttempts.toNat) (hin : s.inputs = List.replicate 5 .nfc ++ rest)
    (hans : Answers s.params.profile s.chan
      (programScript s.params.profile s.regs.startPage.toNat (slotUnit s 0) [] b) c) :
    ∃ t, Sys2Proof.core.run 5 s = .next t ∧ EndedOk t ∧ HostKept s t ∧ t.inputs = rest ∧ t.chan = c ∧ t.mem = s.mem := by
  have hwant : pagesWanted s = 1 := by rw [pagesWanted, hword]; rfl
  have hstart := controllerStep_start_pages hp (i := .programPage) (by rw [hword]; rfl) rfl hrange Nat.one_pos
  have hon : OnPage (atFirstPage .wrEnable s) := onPage_atFirstPage (hwant ▸ hrange) (hwant ▸ Nat.one_pos) hdone
  have hunit : loadUnit (atFirstPage .wrEnable s) = slotUnit s 0 := by
    rw [loadUnit_of_no_race (by exact hrace)]
    simp [atFirstPage, slotUnit]
  obtain ⟨v, hrun, hprog, -⟩ := controllerRun_programPage (bs := []) (b := b) (c := c) (s := atFirstPage .wrEnable s) rfl
    (by exact hword ▸ by decide) (hon.rowFits hwf) hon.slotFits (List.forall_mem_nil _) hready hmax
    (by rw [hunit]; exact hans)
  rw [pageComplete_single (.inr (hprog.host.word.trans hword))] at hrun
  have hend := hprog.countPage.finishOk
  have hrun' : ControllerRun 5 s _ := ⟨_, hstart, hrun⟩
  refine ⟨_, run_of_controllerRun hwf (.inr ⟨rest, hin⟩) hrun', endedOk_finishOk _,
    (hostKept_atFirstPage _ s).trans hend.host, ?_, hend.chan, hend.mem⟩
  rw [hrun'.inputs, hin]
  rfl

theorem slotUnit_length (s : State) (i : Nat) : (slotUnit s i).length = s.params.profile.cu := by
  simp [slotUnit, cu_eq]

theorem take_slotUnit_zero (s : State) : (slotUnit s 0).take s.params.profile.pageSizeBytes
    = memRead s.mem s.regs.bufAddr.toNat s.params.profile.pageSizeBytes := by
  rw [slotUnit, Nat.zero_mul, Nat.add_zero, List.take_left' (memRead_length ..)]

theorem programScript_frames_wf {P : Profile} {p : Nat} {d : List Byte} (hp : rowFits P p = true) (hd : d.length = P.cu) :
    ∀ e ∈ programScript P p d [] 0, e.1.wf P = true ∧ commandCode e.1 = none ∧ e.2.length = respLen P e.1 := by
  simp [programScript, statusScript, statusRead, Instr.wf, commandCode, respLen, hp, hd]

theorem readScript_frames_wf {P : Profile} {p : Nat} {d : List Byte} (hp : rowFits P p = true) (hd : d.length = P.cu) :
    ∀ e ∈ readScript P p [] 0 d, e.1.wf P = true ∧ commandCode e.1 = none ∧ e.2.length = respLen P e.1 := by
  simp [readScript, statusScript, statusRead, Instr.wf, commandCode, respLen, hp, hd]

/-- Settles O60: the program leaves the page's unit on the device, the host's two moves accept the read, and the read
brings the unit back to the target. -/
theorem programThenReadRoundTrip : Obligations.ProgramThenReadRoundTrip := by
  intro s dev target hwf hdistinct hp hword hbusy hrace hmem hdone hpoll hmax hrange htarget hdev hleft hscript herr hecc
    hpfail hefail hin
  obtain ⟨hpages, hbuf, -⟩ := (rangeOk_iff _ _ _).mp hrange
  rw [Nat.one_mul] at hbuf
  have hrow := (page_fits hwf (Nat.lt_of_succ_le hpages)).1
  have hlen := slotUnit_length s 0
  have hready := reportsReady_zero hwf
  have hbudget : 0 < s.regs.maxAttempts.toNat := Nat.pos_of_ne_zero fun hz => hmax (BitVec.eq_of_toNat_eq hz)
  have hpage : 1 ≤ s.params.profile.pageSizeBytes := ((profile_wf_iff _).mp ((params_wf_iff _).mp hwf).2.2).1
  obtain ⟨rd₁, hprogram, hquiet, hstored⟩ := rdAnswers_program hlen hscript herr hecc hpfail
  obtain ⟨rd₂, hread⟩ := rdAnswers_read hlen hquiet hstored
  obtain ⟨c₁, hans₁, hdev₁⟩ := answers_of_rdAnswers hdistinct hdev herr (programScript_frames_wf hrow hlen) hprogram
  obtain ⟨c₂, hans₂, -⟩ := answers_of_rdAnswers hdistinct hdev₁ hquiet.chanErr (readScript_frames_wf hrow hlen) hread
  obtain ⟨t, hrun, hend, hkept, hinputs, hchan, hmem'⟩ :=
    run_programPage hwf hp hword hrace hdone hrange hready hbudget hin hans₁
  have hmove := run_moveBuffer_accept (v := target) (w := 0x10) (by rw [hkept.params]; exact hwf) hend.busy hinputs
    (by rw [hkept.params]; exact Nat.lt_of_lt_of_le (Nat.lt_add_of_pos_right hpage) htarget)
  obtain ⟨u, hu⟩ : ∃ u, u = acceptCommand 0x10 { t with inputs := [], regs := { t.regs with bufAddr := target } } := ⟨_, rfl⟩
  have hparams : u.params = s.params := by rw [hu]; exact hkept.params
  have hstart : u.regs.startPage = s.regs.startPage := by rw [hu]; exact hkept.startPage
  have hbufLen : u.regs.bufLen = s.regs.bufLen := by rw [hu]; exact hkept.bufLen
  have htargetAddr : u.regs.bufAddr = target := by rw [hu]; rfl
  have hattempts : u.regs.maxAttempts = s.regs.maxAttempts := by rw [hu]; exact hkept.maxAttempts
  have humem : u.mem = s.mem := by rw [hu]; exact hmem'
  have huchan : u.chan = c₁ := by rw [hu]; exact hchan
  have haccepted : Accepted 0x10 u := by
    refine ⟨by rw [hparams]; exact hwf, ?_, ?_, by rw [humem]; exact hmem, ?_, ?_, ?_, ?_, ?_⟩ <;> rw [hu] <;> rfl
  have hrange' : rangeOk u u.regs.startPage.toNat 1 = true := by
    refine (rangeOk_iff _ _ _).mpr ?_
    rw [hparams, hstart, hbufLen, htargetAddr, Nat.one_mul]
    exact ⟨hpages, hbuf, htarget⟩
  obtain ⟨v, hrun', hend', -, -, -, -, hpageRead, hout⟩ := run_readPage (bs := []) (b := 0) haccepted hrange'
    (List.forall_mem_nil _) (reportsReady_zero haccepted.params_wf) (by rw [hattempts]; exact hbudget)
    (by rw [hparams]; exact hlen) (by rw [hparams, hstart, huchan]; exact hans₂)
  rw [hparams, htargetAddr] at hpageRead hout
  rw [← hu] at hmove
  refine ⟨v, (run_add hrun).trans ((run_add hmove).trans hrun'), hend', hpageRead.trans (take_slotUnit_zero s), ?_⟩
  exact fun a ha => (hout a ha).trans (by rw [humem])

end Sys2Proof.Machine
end

section
/-! SUPPORT. The encodings of 30_encoding.md (R110 to R112, R120 to R136): decoding undoes encoding, whatever a frame is
decoded from is that frame's encoding, and START runs the command that the word names. -/

namespace Sys2Proof.Machine

variable {s t : State} {P : Profile} {i : Instr} {n : Nat} {bs rest : List Byte}

/-! ### Decoding what was encoded (R110, R111, R125 to R135) -/

/-- A command's four bytes decode to the command, whatever stands after them (R74, R111). -/
theorem decode_encode_command {c : Nat} (hc : commandCode i = some c) (P : Profile) (rest : List Byte) :
    decode P .cmd32 (encode P i ++ rest) = .ok (i, rest) := by
  cases i <;> cases hc <;> rfl

/-- Settles O2: a command by R111's table, a frame by its opcode, which no row before it has. -/
theorem decodeOfEncodeIsTheInstruction : Obligations.DecodeOfEncodeIsTheInstruction := by
  intro P i rest hdistinct hwf
  unfold Instr.format
  cases hc : commandCode i with
  | some c => exact decode_encode_command hc P rest
  | none => exact decodeFrame_encode hdistinct hwf hc rest

/-- Settles O1: each byte string decodes by evaluation. -/
theorem decodesWordsOfTheSpec : Obligations.DecodesWordsOfTheSpec := by
  refine ⟨?_, ?_, ?_, ?_, ?_, ?_, ?_, ?_, ?_, ?_, ?_, ?_⟩ <;> rfl

/-! ### Encoding what was decoded (R120, R121, R125 to R135) -/

theorem takeExact_eq_some {front : List Byte} (h : takeExact n bs = some (front, rest)) :
    front.length = n ∧ bs = front ++ rest := by
  unfold takeExact at h
  split at h
  next hlen =>
    cases h
    exact ⟨List.length_take_of_le ((atLeast_iff n bs).mp hlen), (List.take_append_drop n bs).symm⟩
  · cases h

theorem withField_ok {k : List Byte → List Byte → Except DecodeError (Instr × List Byte)} {x : Instr × List Byte}
    (h : withField n bs k = .ok x) : ∃ front rest, front.length = n ∧ bs = front ++ rest ∧ k front rest = .ok x := by
  unfold withField at h
  split at h
  next front rest htake =>
    obtain ⟨hlen, hbs⟩ := takeExact_eq_some htake
    exact ⟨front, rest, hlen, hbs, h⟩
  · cases h

theorem eq_zeros_of_allZero (h : allZero bs = true) : bs = zeros bs.length :=
  List.eq_replicate_of_mem fun b hb => eq_of_beq (List.all_eq_true.mp h b hb)

theorem withZeros_ok {j : Instr} (h : withZeros n bs j = .ok (i, rest)) : i = j ∧ bs = zeros n ++ rest := by
  obtain ⟨front, rest', rfl, rfl, hk⟩ := withField_ok h
  split at hk
  next hzero =>
    cases hk
    exact ⟨rfl, congrArg (· ++ rest) (eq_zeros_of_allZero hzero)⟩
  · cases hk

/-- Big-endian bytes are those of their value (R9). -/
theorem beBytes_beValue (bs : List Byte) : beBytes bs.length (beValue bs) = bs := by
  induction bs using List.reverseRecOn with
  | nil => rfl
  | append_singleton bs b ih =>
    have hb := b.isLt
    have hbyte : BitVec.ofNat 8 (beValue bs * 256 + b.toNat) = b := by
      rw [← BitVec.toNat_inj, BitVec.toNat_ofNat]
      omega
    rw [List.length_append, List.length_singleton, beBytes, beValue_append, hbyte,
      show (beValue bs * 256 + b.toNat) / 256 = beValue bs by omega, ih]

/-- A row address that was read is that of a page index that fits (R120). -/
theorem withRow_ok {mk : Nat → Instr} (h : withRow P bs mk = .ok (i, rest)) :
    ∃ p, rowFits P p = true ∧ i = mk p ∧ bs = row P p ++ rest := by
  have hindex {idx : List Byte} (hlen : idx.length = P.pageAddrBytes) :
      rowFits P (beValue idx) = true ∧ beBytes P.pageAddrBytes (beValue idx) = idx := by
    rw [← hlen, rowFits, ← hlen]
    exact ⟨decide_eq_true (beValue_lt idx), beBytes_beValue idx⟩
  unfold withRow at h
  unfold row
  cases hpos : P.rowDummyPos with
  | low =>
    rw [hpos] at h
    obtain ⟨idx, rest', hlen, rfl, hk⟩ := withField_ok h
    obtain ⟨rfl, rfl⟩ := withZeros_ok hk
    obtain ⟨hfits, hbytes⟩ := hindex hlen
    exact ⟨_, hfits, rfl, by rw [hbytes, List.append_assoc]⟩
  | high =>
    rw [hpos] at h
    obtain ⟨d, rest', hd, rfl, hk⟩ := withField_ok h
    split at hk
    next hzero =>
      obtain ⟨idx, rest'', hlen, rfl, hidx⟩ := withField_ok hk
      cases hidx
      obtain ⟨hfits, hbytes⟩ := hindex hlen
      refine ⟨_, hfits, rfl, ?_⟩
      rw [hbytes, List.append_assoc, ← hd, ← eq_zeros_of_allZero hzero]
    · cases hk

/-- Whatever the frame decoder reads is well-formed and is encoded by exactly the bytes read: one case for each row of
the table, by the fields that follow its opcode (R125 to R135). -/
theorem decodeFrame_ok (h : decodeFrame P bs = .ok (i, rest)) : i.wf P = true ∧ bs = encode P i ++ rest := by
  cases bs with
  | nil => cases h
  | cons op bs =>
    rw [decodeFrame] at h
    obtain ⟨hop, h⟩ | ⟨-, h⟩ := ite_eq_iff.mp h
    · obtain ⟨p, hp, rfl, rfl⟩ := withRow_ok h
      exact ⟨hp, hop ▸ rfl⟩
    obtain ⟨hop, h⟩ | ⟨-, h⟩ := ite_eq_iff.mp h
    · obtain ⟨rfl, rfl⟩ := withZeros_ok h
      rw [← zeros_append]
      exact ⟨rfl, hop ▸ rfl⟩
    obtain ⟨hop, h⟩ | ⟨-, h⟩ := ite_eq_iff.mp h
    · obtain ⟨c, rest', hc, rfl, hload⟩ := withField_ok h
      obtain ⟨hzero, hload⟩ | ⟨-, hload⟩ := ite_eq_iff.mp hload
      · obtain ⟨d, rest'', hd, rfl, hk⟩ := withField_ok hload
        cases hk
        refine ⟨decide_eq_true hd, ?_⟩
        rw [eq_zeros_of_allZero hzero, hc, encode, col, List.cons_append, List.append_assoc, hop]
      · cases hload
    obtain ⟨hop, h⟩ | ⟨-, h⟩ := ite_eq_iff.mp h
    · obtain ⟨p, hp, rfl, rfl⟩ := withRow_ok h
      exact ⟨hp, hop ▸ rfl⟩
    obtain ⟨hop, h⟩ | ⟨-, h⟩ := ite_eq_iff.mp h
    · obtain ⟨p, hp, rfl, rfl⟩ := withRow_ok h
      exact ⟨hp, hop ▸ rfl⟩
    obtain ⟨hop, h⟩ | ⟨-, h⟩ := ite_eq_iff.mp h
    · obtain ⟨f, rest', hf, rfl, hk⟩ := withField_ok h
      obtain ⟨a, rfl⟩ := List.length_eq_one_iff.mp hf
      cases hk
      exact ⟨rfl, hop ▸ rfl⟩
    obtain ⟨hop, h⟩ | ⟨-, h⟩ := ite_eq_iff.mp h
    · obtain ⟨f, rest', hf, rfl, hval⟩ := withField_ok h
      obtain ⟨a, rfl⟩ := List.length_eq_one_iff.mp hf
      obtain ⟨g, rest'', hg, rfl, hk⟩ := withField_ok hval
      obtain ⟨v, rfl⟩ := List.length_eq_one_iff.mp hg
      cases hk
      exact ⟨rfl, hop ▸ rfl⟩
    obtain ⟨hop, h⟩ | ⟨-, h⟩ := ite_eq_iff.mp h
    · cases h; exact ⟨rfl, hop ▸ rfl⟩
    obtain ⟨hop, h⟩ | ⟨-, h⟩ := ite_eq_iff.mp h
    · cases h; exact ⟨rfl, hop ▸ rfl⟩
    obtain ⟨hop, h⟩ | ⟨-, h⟩ := ite_eq_iff.mp h
    · cases h; exact ⟨rfl, hop ▸ rfl⟩
    obtain ⟨hop, h⟩ | ⟨-, h⟩ := ite_eq_iff.mp h
    · obtain ⟨rfl, rfl⟩ := withZeros_ok h
      exact ⟨rfl, hop ▸ rfl⟩
    · cases h

/-- Settles O3: field by field, the bytes read are the ones the encoder writes. -/
theorem encodeOfDecodedFrameIsTheBytes : Obligations.EncodeOfDecodedFrameIsTheBytes := fun _ _ _ _ h => decodeFrame_ok h

/-! ### The bytes of a frame (R120, R121, R125 to R135) -/

/-- Settles O5: the encoder row by row, with the loaded data and its pad split apart. -/
theorem frameBytes : Obligations.FrameBytes := by
  intro P p d a v
  refine ⟨rfl, rfl, rfl, rfl, ?_, rfl, rfl, rfl, rfl, rfl, rfl, rfl, rfl, rfl, rfl, rfl, rfl, rfl, rfl, rfl, rfl, rfl⟩
  simp [encode]

/-- Byte `k` of a big-endian encoding, counted from the most significant (R9). -/
theorem beBytes_getElem? {k : Nat} : ∀ {n v : Nat}, k < n →
    ((beBytes n v)[k]?).map BitVec.toNat = some (v / 256 ^ (n - 1 - k) % 256)
  | n + 1, v, hk => by
    rw [beBytes]
    rcases Nat.lt_succ_iff_lt_or_eq.mp hk with hlt | rfl
    · rw [List.getElem?_append_left (by rwa [beBytes_length]), beBytes_getElem? hlt, Nat.div_div_eq_div_mul,
        ← Nat.pow_succ', show (n - 1 - k).succ = n + 1 - 1 - k by omega]
    · simp

theorem zeros_getElem? {k : Nat} (hk : k < n) : (zeros n)[k]? = some 0x00 := by simp [zeros, hk]

/-- Byte `k` of the page index in the row address, in both dummy positions (R120). -/
theorem row_getElem?_index {k : Nat} (P : Profile) (p : Nat) (hk : k < P.pageAddrBytes) :
    (row P p)[(match P.rowDummyPos with | .low => k | .high => P.rowDummyBytes + k)]?
      = (beBytes P.pageAddrBytes p)[k]? := by
  unfold row
  cases P.rowDummyPos with
  | low => exact List.getElem?_append_left (by rwa [beBytes_length])
  | high =>
    show (zeros _ ++ beBytes _ _)[P.rowDummyBytes + k]? = _
    rw [List.getElem?_append_right (by rw [zeros_length]; omega), zeros_length, Nat.add_sub_cancel_left]

/-- Dummy byte `k` of the row address, in both dummy positions (R120). -/
theorem row_getElem?_dummy {k : Nat} (P : Profile) (p : Nat) (hk : k < P.rowDummyBytes) :
    (row P p)[(match P.rowDummyPos with | .low => P.pageAddrBytes + k | .high => k)]? = some 0x00 := by
  unfold row
  cases P.rowDummyPos with
  | low =>
    show (beBytes _ _ ++ zeros _)[P.pageAddrBytes + k]? = _
    rw [List.getElem?_append_right (by rw [beBytes_length]; omega), beBytes_length, Nat.add_sub_cancel_left]
    exact zeros_getElem? hk
  | high =>
    rw [List.getElem?_append_left (by rwa [zeros_length])]
    exact zeros_getElem? hk

/-- An instruction that goes on has an encoding: the frames with an operand are checked (log 10). -/
theorem wf_of_exec_next (h : exec i s = .next t) : i.wf s.params.profile = true := by
  cases i with
  | fPageReadToCache p => exact (execFPageReadToCache_next h).2.1
  | fProgramLoad d => exact decide_eq_true (execFProgramLoad_next h).2.2.1
  | fProgramExecute p => exact (execFProgramExecute_next h).2.1
  | fBlockErase p => exact (execFBlockErase_next h).2.1
  | _ => rfl

/-- Settles O4: the bytes of R120, and a frame sent from the invariant has an encoding because its step goes on. -/
theorem rowAddressCarriesThePage : Obligations.RowAddressCarriesThePage := by
  refine ⟨row_length, fun P p k hk => ?_, fun P p k hk => ?_, rfl, fun s i hi hf => ?_⟩
  · exact (congrArg (Option.map BitVec.toNat) (row_getElem?_index P p hk)).trans (beBytes_getElem? hk)
  · exact row_getElem?_dummy P p hk
  · obtain ⟨t, ht⟩ := controllerStep_goes_on hi
    exact wf_of_exec_next ((controllerStep_frame hf).symm.trans ht)

/-! ### The command word (R110 to R112) -/

/-- Settles O7: a word of the table decodes to its command, any other to none. -/
theorem startDecodesTheCommandWord : Obligations.StartDecodesTheCommandWord := by
  intro s hp
  have hrow {w : Word} {i : Instr} (hdec : decodeCommand w = .ok i) (hw : s.seq.word = w) :
      controllerStep s = exec i s := controllerStep_start_ok hp (hw ▸ hdec)
  exact ⟨hrow rfl, hrow rfl, hrow rfl, hrow rfl, hrow rfl, hrow rfl, hrow rfl, hrow rfl, hrow rfl, hrow rfl, hrow rfl,
    hrow rfl, controllerStep_start_illegal hp⟩

/-- R111's codes: those of a command word, whose RSVD is 0, lie outside R112's ranges. -/
theorem toNat_of_mem_commandWords : ∀ w ∈ commandWords,
    (0x01 ≤ w.toNat ∧ w.toNat ≤ 0x07) ∨ (0x10 ≤ w.toNat ∧ w.toNat ≤ 0x12) ∨ (0x20 ≤ w.toNat ∧ w.toNat ≤ 0x21) := by
  simp [commandWords]

/-- Settles O8: no word of R112's ranges is in the table, and the raise writes its own registers alone. -/
theorem illegalWordChangesNothingElse : Obligations.IllegalWordChangesNothingElse := by
  intro s hp hill
  have hword : s.seq.word ∉ commandWords := fun hmem => by
    have := toNat_of_mem_commandWords _ hmem
    omega
  exact ⟨_, controllerStep_start_illegal hp hword, by constructor <;> rfl, hostSideKept_raiseError _ _ s,
    by constructor <;> rfl, by constructor <;> rfl, rfl, rfl, rfl, rfl, rfl, rfl⟩

end Sys2Proof.Machine
end

section
/-! SUPPORT. The frames of 30_encoding.md in their phases and outside them (R125, R128 to R135, R163, R196, R260 to
R268), and what the status decode writes (R122, R123, R162). -/

namespace Sys2Proof.Machine

variable {s t : State}

/-- A frame's step, once the answer is known: the raise, or what follows a response that is not read (R80, R302). -/
theorem exec_of_answer {i : Instr} {page : Option Nat} {k : State → State}
    (h : exec i s = .next (sendFrame i page (fun _ u => k u) s)) :
    (frameAnswer i s = none → exec i s = .next (raiseError .channelError page (afterFrame i s))) ∧
    (∀ r, frameAnswer i s = some r → exec i s = .next (k (afterFrame i s))) :=
  ⟨fun hans => by rw [h, sendFrame_error _ _ hans], fun r hans => by rw [h, sendFrame_ok _ _ hans]⟩

/-! ### The row frames and the polls they start (R125, R128, R129) -/

/-- Settles O14: each phase sends its frame, and the answer decides between the raise and the poll. -/
theorem addressPhases : Obligations.AddressPhases := by
  intro s p hp
  have hrow : rowFits s.params.profile p = true := decide_eq_true hp
  refine ⟨fun hph => ⟨?_, exec_of_answer (exec_fPageReadToCache hph hrow)⟩,
    fun hph => ⟨?_, exec_of_answer (exec_fProgramExecute hph hrow)⟩,
    fun hph => ⟨?_, exec_of_answer (exec_fBlockErase hph hrow)⟩⟩
  all_goals
    rintro rfl
    exact controllerStep_frame (by rw [phaseFrame, hph])

/-! ### One attempt of a poll (R130, R163, R166) -/

/-- The page that a poll's errors carry: none for POLL and RESET (R163). -/
theorem pollPage_eq (s : State) :
    pollPage s = if s.seq.ret = .poll ∨ s.seq.ret = .reset then none else some s.seq.cur := by
  unfold pollPage
  cases s.seq.ret <;> rfl

/-- The attempt has been counted, so the budget lasts for another one where two were left (R163). -/
theorem countAttempt_pollCount (h : s.regs.pollCount.toNat < s.regs.maxAttempts.toNat) :
    (countAttempt s).regs.pollCount.toNat = s.regs.pollCount.toNat + 1 := by
  rw [countAttempt_regs]
  bv_omega

/-- Settles O17: the budget, then the answer, then the byte's outcome. -/
theorem pollReadPhase : Obligations.PollReadPhase := by
  intro s a hp
  have hexec := exec_fGetStatus_poll a hp
  refine ⟨?_, ?_⟩
  · rintro rfl
    exact controllerStep_frame (by rw [phaseFrame, hp])
  rintro pg hpg
  obtain rfl : pollPage s = pg := (pollPage_eq s).trans hpg.symm
  refine ⟨fun hspent => by rw [hexec, pollAttempt, if_pos hspent], ?_⟩
  rintro hleft s₁ rfl
  rw [pollAttempt, if_neg (by omega)] at hexec
  refine ⟨fun hans => ?_, ?_⟩
  · rw [hexec, sendFrame_error (s := countAttempt s) _ _ hans]
    rfl
  intro b hans u hu
  rw [sendFrame_ok (s := countAttempt s) _ _ hans] at hexec
  have hdecide (o : Decoded) (ho : decodeOutcome s.params.profile s.regs.eccCorrFatal b = o) :
      exec (.fGetStatus a) s = .next (pollDecide o u) := by
    rw [hu, ← ho]
    exact hexec
  refine ⟨fun ho => ?_, fun e ho => ?_, fun v ho => hdecide _ ho⟩
  · have hcount : u.regs.pollCount.toNat = s.regs.pollCount.toNat + 1 := by
      rw [hu, ← countAttempt_pollCount hleft, decodeStatus_regs, decodeRegs_pollCount]
      rfl
    have hmax : u.regs.maxAttempts = s.regs.maxAttempts := by
      rw [hu, decodeStatus_regs, decodeRegs_maxAttempts]
      rfl
    rw [hdecide _ ho, pollDecide, hcount, hmax, hu]
    rfl
  · rw [hdecide _ ho, hu]
    rfl

/-! ### The device-control frames (R131 to R134) -/

theorem exec_fReset (hp : s.seq.phase = .rstSend) :
    exec .fReset s = .next (sendFrame .fReset none (fun _ u => beginPoll .reset u) s) := by
  rw [exec, execFReset, hp]

/-- In SINGLE the frames without a response end the command (R264, R266, R268). -/
theorem exec_sendingFrame_single {a v : Byte} {i : Instr} (hp : s.seq.phase = .single)
    (hi : i ∈ [Instr.fSetStatus a v, Instr.fWriteEnable, Instr.fWriteDisable]) :
    exec i s = .next (sendFrame i none (fun _ u => finishOk u) s) := by
  simp only [List.mem_cons, List.not_mem_nil, or_false] at hi
  rcases hi with rfl | rfl | rfl
  · rw [exec, execFSetStatus, hp]
  · rw [exec, execFWriteEnable, hp]
  · rw [exec, execFWriteDisable, hp]

/-- The frame of a one-frame command is the one that its word names (R269). -/
theorem controllerStep_single {i : Instr} (hp : s.seq.phase = .single) (hi : singleFrame s = some i) :
    controllerStep s = exec i s := controllerStep_frame (by rw [phaseFrame, hp]; exact hi)

/-- Settles O19: each phase sends its frame, and the answer decides between the raise and what follows. -/
theorem deviceControlPhases : Obligations.DeviceControlPhases := by
  intro s
  refine ⟨fun hp => ⟨controllerStep_frame (by rw [phaseFrame, hp]), exec_of_answer (exec_fWriteEnable_page hp)⟩,
    fun hp => ⟨controllerStep_frame (by rw [phaseFrame, hp]), exec_of_answer (exec_fReset hp)⟩,
    fun hp => ⟨fun hw => ?_, fun hw => ?_, fun hw => ?_,
      fun a v i hi => exec_of_answer (exec_sendingFrame_single hp hi)⟩⟩
  all_goals exact controllerStep_single hp (by rw [singleFrame, hw]; rfl)

/-! ### Frames that are refused (log 10) -/

theorem frameNext_refused {i : Instr} (t : State) (h : i.wf s.params.profile = false) :
    frameNext i s t = .refused .illFormedFrame := by
  rw [frameNext, h]
  rfl

/-- Settles O20: outside its phases no branch of a frame's meaning applies, and in them the operand is checked. -/
theorem frameOutsideItsPhaseIsRefused : Obligations.FrameOutsideItsPhaseIsRefused := by
  intro s p d a v
  have hrow (hp : 2 ^ (8 * s.params.profile.pageAddrBytes) ≤ p) : rowFits s.params.profile p = false :=
    decide_eq_false (Nat.not_lt.mpr hp)
  refine ⟨fun h => ?_, fun h => ?_, fun h => ?_, fun h => ?_, fun h => ?_, fun h h' => ?_, fun h => ?_, fun h => ?_,
    fun h h' => ?_, fun h => ?_, fun h => ?_, fun hp => ⟨fun h => ?_, fun h => ?_, fun h => ?_⟩,
    fun h hlen hstart hslot => ?_⟩
  · rw [exec, execFPageReadToCache]; split <;> [contradiction; rfl]
  · rw [exec, execFReadFromCache]; split <;> [contradiction; rfl]
  · rw [exec, execFProgramLoad]; split <;> [contradiction; rfl]
  · rw [exec, execFProgramExecute]; split <;> [contradiction; rfl]
  · rw [exec, execFBlockErase]; split <;> [contradiction; rfl]
  · rw [exec, execFGetStatus]; split <;> [contradiction; contradiction; rfl]
  · rw [exec, execFSetStatus]; split <;> [contradiction; rfl]
  · rw [exec, execFReset]; split <;> [contradiction; rfl]
  · rw [exec, execFWriteEnable]; split <;> [contradiction; contradiction; rfl]
  · rw [exec, execFWriteDisable]; split <;> [contradiction; rfl]
  · rw [exec, execFReadId]; split <;> [contradiction; rfl]
  · rw [exec, execFPageReadToCache, h]; exact frameNext_refused _ (hrow hp)
  · rw [exec, execFProgramExecute, h]; exact frameNext_refused _ (hrow hp)
  · rw [exec, execFBlockErase, h]; exact frameNext_refused _ (hrow hp)
  · have hfit : slotFits s = true := (slotFits_iff s).mpr ⟨hstart, hslot⟩
    rw [exec, execFProgramLoad, h]
    exact (if_pos hfit).trans (frameNext_refused _ (decide_eq_false hlen))

/-! ### The status decode (R122, R123, R162) -/

theorem reachesEcc_of_clear {P : Profile} {b : Byte} (hbusy : b &&& P.busyMask = 0) (hefail : b &&& P.efailMask = 0)
    (hpfail : b &&& P.pfailMask = 0) : reachesEcc P b = true := by
  simp [reachesEcc, statusBusy, statusEfail, statusPfail, hbusy, hefail, hpfail]

/-- The higher severity is the one with the higher number (R123). -/
theorem sevCode_sevMax (u v : Severity) : sevCode (sevMax u v) = max (sevCode u) (sevCode v) := by
  cases u <;> cases v <;> rfl

theorem bumpCorrected_of_ne {v : Severity} (c : Word) (h : v ≠ .corrected) : bumpCorrected v c = c := by
  cases v <;> [rfl; contradiction; rfl]

/-- Settles O29: the decode's record update where it reaches the ECC field, and the map's lookup. -/
theorem decodeWrites : Obligations.DecodeWrites := by
  refine ⟨fun P b r hbusy hefail hpfail => ?_, fun P b v hlookup => ?_, fun P b hlookup => ?_, rfl, rfl, rfl⟩
  · refine ⟨_, if_pos (reachesEcc_of_clear hbusy hefail hpfail), rfl, sevCode_sevMax _ _, fun hv => ?_,
      fun hv => bumpCorrected_of_ne _ hv⟩
    rw [hv]
    exact BitVec.toNat_add _ _
  · rw [severity, eccField, hlookup]; rfl
  · rw [severity, eccField, hlookup]; rfl

end Sys2Proof.Machine
end

section
/-! SUPPORT. What an instruction leaves unchanged (R111, R113, R125 to R135, R163, R170, R262). Every step ends in a
change of the phase, with the registers of a command's end where it ends the command; what is kept then depends only on
the state before that. -/

namespace Sys2Proof.Machine

variable {s t u w : State}

/-! ### The last thing a step does -/

/-- `w` in phase `ph`, with the registers that report a command's end (R310, R311) those of `r`. -/
def closedAs (r : Regs) (ph : Phase) (w : State) : State :=
  { w with
    regs := { w.regs with
      busy := r.busy, done := r.done, err := r.err, errCode := r.errCode, pageValid := r.pageValid
      failPage := r.failPage }
    seq := { w.seq with phase := ph } }

/-- From `w` the step changes the phase, and where it ends the command the registers of the end; nothing else. -/
def Closes (w t : State) : Prop := ∃ r ph, t = closedAs r ph w ∧ (ph ≠ .idle → EndKept w t)

theorem closes_raiseError (e : ErrCode) (page : Option Nat) (w : State) : Closes w (raiseError e page w) :=
  ⟨(raiseError e page w).regs, .idle, rfl, fun h => absurd rfl h⟩

theorem closes_finishOk (w : State) : Closes w (finishOk w) := ⟨(finishOk w).regs, .idle, rfl, fun h => absurd rfl h⟩

theorem closes_setPhase (ph : Phase) (w : State) : Closes w (setPhase ph w) :=
  ⟨w.regs, ph, rfl, fun _ => by constructor <;> rfl⟩

theorem closes_pageComplete (w : State) : Closes (countPage w) (pageComplete w) := by
  rcases pageComplete_ends_or_goes_on w with h | ⟨ph, -, h⟩ <;> rw [h]
  · exact closes_finishOk _
  · exact closes_setPhase _ _

theorem closes_sendFrame {i : Instr} {page : Option Nat} {k : List Byte → State → State} (s : State)
    (hk : ∀ r u, Closes u (k r u)) : Closes (afterFrame i s) (sendFrame i page k s) := by
  rcases sendFrame_cases i page k s with ⟨-, h⟩ | ⟨r, -, -, h⟩ <;> rw [h]
  · exact closes_raiseError _ _ _
  · exact hk r _

/-! ### The START steps (R111, R113) -/

/-- A START step sets `st.cur` and goes on or ends, or it starts POLL's poll. -/
theorem exec_command_cases {i : Instr} {c : Nat} (hc : commandCode i = some c) (h : exec i s = .next t) :
    (∃ n, Closes (setCur n s) t) ∨ i = .poll ∧ t = beginPoll .poll s := by
  have hphase (ph : Phase) : ∃ n, Closes (setCur n s) (setPhase ph s) := ⟨s.seq.cur, closes_setPhase ph s⟩
  have hraise (e : ErrCode) : ∃ n, Closes (setCur n s) (raiseError e none s) := ⟨s.seq.cur, closes_raiseError e none s⟩
  have hpages (count : Nat) (first : Phase) : ∃ n, Closes (setCur n s) (startPages count first s) := by
    rcases startPages_cases count first s with ⟨-, hs⟩ | ⟨-, -, hs⟩ | ⟨-, -, hs⟩ <;> rw [hs]
    · exact hraise _
    · exact ⟨_, closes_finishOk _⟩
    · exact ⟨_, closes_setPhase _ _⟩
  cases i with
  | reset => cases h; exact .inl (hphase _)
  | identify => cases h; exact .inl (hphase _)
  | getStatus => cases h; exact .inl (hphase _)
  | setStatus => cases h; exact .inl (hphase _)
  | writeEnable => cases h; exact .inl (hphase _)
  | writeDisable => cases h; exact .inl (hphase _)
  | poll => cases h; exact .inr ⟨rfl, rfl⟩
  | readPage => cases h; exact .inl (hpages _ _)
  | programPage => cases h; exact .inl (hpages _ _)
  | readRange => cases h; exact .inl (hpages _ _)
  | programRange => cases h; exact .inl (hpages _ _)
  | eraseBlock =>
    rcases execEraseBlock_cases s with ⟨-, he⟩ | he <;> cases he.symm.trans h
    · exact .inl ⟨_, closes_setPhase _ _⟩
    · exact .inl (hraise _)
  | _ => cases hc

/-- Settles O21: beyond `st.cur`, the phase and the registers of the end, only POLL's START step writes anything. -/
theorem frameOfCommands : Obligations.FrameOfCommands := by
  intro i s t hi h
  have hcode : ∃ c, commandCode i = some c := by
    simp only [List.mem_cons, List.not_mem_nil, or_false] at hi
    rcases hi with rfl | rfl | rfl | rfl | rfl | rfl | rfl | rfl | rfl | rfl | rfl | rfl <;> exact ⟨_, rfl⟩
  obtain ⟨c, hc⟩ := hcode
  refine ⟨hostSideKept_exec h, ?_⟩
  rcases exec_command_cases hc h with ⟨n, r, ph, rfl, hend⟩ | ⟨rfl, rfl⟩
  · exact ⟨by constructor <;> rfl, by constructor <;> rfl, fun _ => rfl, rfl, rfl, rfl, rfl, rfl, rfl,
      fun _ => ⟨rfl, rfl⟩, fun hp => { hend hp with }⟩
  · exact ⟨by constructor <;> rfl, by constructor <;> rfl, fun _ => rfl, rfl, rfl, rfl, rfl, rfl, rfl,
      fun hpoll => absurd rfl hpoll, fun _ => by constructor <;> rfl⟩

/-! ### The frames without a response (R125, R127 to R129, R131 to R134) -/

/-- `s` with another scratch buffer and count of free draws: what WR_LOAD sets before its frame (R197). -/
def withScratch (bs : List Byte) (n : Nat) (s : State) : State :=
  { s with seq := { s.seq with scratch := bs }, draws := n }

theorem sendFrame_beginPoll_cases (i : Instr) (page : Option Nat) (r : Ret) (s : State) :
    Closes (afterFrame i s) (sendFrame i page (fun _ u => beginPoll r u) s) ∨
    sendFrame i page (fun _ u => beginPoll r u) s = beginPoll r (afterFrame i s) := by
  rcases sendFrame_cases i page (fun _ u => beginPoll r u) s with ⟨-, h⟩ | ⟨_, -, -, h⟩
  · exact .inl (h ▸ closes_raiseError _ _ _)
  · exact .inr h

/-- A frame without a response is sent, program-load with its unit in scratch; then the step goes on or ends, or it
starts the poll that follows the frame. -/
theorem exec_sendingFrame_cases {p : Nat} {d : List Byte} {a v : Byte} {i : Instr}
    (hi : i ∈ [Instr.fPageReadToCache p, Instr.fProgramLoad d, Instr.fProgramExecute p, Instr.fBlockErase p,
      Instr.fSetStatus a v, Instr.fReset, Instr.fWriteEnable, Instr.fWriteDisable]) (h : exec i s = .next t) :
    ∃ bs n, (i ≠ .fProgramLoad d → bs = s.seq.scratch ∧ n = s.draws) ∧
      (Closes (afterFrame i (withScratch bs n s)) t ∨
       i ∉ [Instr.fProgramLoad d, Instr.fSetStatus a v, Instr.fWriteEnable, Instr.fWriteDisable] ∧
        ∃ r, t = beginPoll r (afterFrame i (withScratch bs n s))) := by
  simp only [List.mem_cons, List.not_mem_nil, or_false] at hi
  rcases hi with rfl | rfl | rfl | rfl | rfl | rfl | rfl | rfl
  case inr.inl =>
    obtain ⟨-, -, -, rfl⟩ := execFProgramLoad_next h
    exact ⟨d, s.draws + 1, fun hne => absurd rfl hne,
      .inl (closes_sendFrame (countDraw (setScratch d s)) fun _ _ => closes_setPhase _ _)⟩
  all_goals refine ⟨s.seq.scratch, s.draws, fun _ => ⟨rfl, rfl⟩, ?_⟩
  · obtain ⟨-, -, rfl⟩ := execFPageReadToCache_next h
    exact (sendFrame_beginPoll_cases _ _ _ s).imp_right fun ht => ⟨by simp, _, ht⟩
  · obtain ⟨-, -, rfl⟩ := execFProgramExecute_next h
    exact (sendFrame_beginPoll_cases _ _ _ s).imp_right fun ht => ⟨by simp, _, ht⟩
  · obtain ⟨-, -, rfl⟩ := execFBlockErase_next h
    exact (sendFrame_beginPoll_cases _ _ _ s).imp_right fun ht => ⟨by simp, _, ht⟩
  · obtain ⟨-, rfl⟩ := execFSetStatus_next h
    exact .inl (closes_sendFrame s fun _ _ => closes_finishOk _)
  · obtain ⟨-, rfl⟩ := execFReset_next h
    exact (sendFrame_beginPoll_cases _ _ _ s).imp_right fun ht => ⟨by simp, _, ht⟩
  · obtain ⟨-, rfl⟩ | ⟨-, rfl⟩ := execFWriteEnable_next h
    · exact .inl (closes_sendFrame s fun _ _ => closes_setPhase _ _)
    · exact .inl (closes_sendFrame s fun _ _ => closes_finishOk _)
  · obtain ⟨-, rfl⟩ := execFWriteDisable_next h
    exact .inl (closes_sendFrame s fun _ _ => closes_finishOk _)

/-- Settles O22: the Transceive touches the channel and TXN_COUNT alone, and only a poll that starts writes more than
the phase and the registers of the end. -/
theorem frameOfSendingFrames : Obligations.FrameOfSendingFrames := by
  intro p d a v i s t hi h
  refine ⟨hostSideKept_exec h, ?_⟩
  obtain ⟨bs, n, hkept, ⟨r, ph, rfl, hend⟩ | ⟨hpoll, r, rfl⟩⟩ := exec_sendingFrame_cases hi h
  · exact ⟨by constructor <;> rfl, by constructor <;> rfl, fun _ => rfl, rfl, rfl, rfl, hkept, fun _ => ⟨rfl, rfl⟩,
      fun hp => { hend hp with }⟩
  · exact ⟨by constructor <;> rfl, by constructor <;> rfl, fun _ => rfl, rfl, rfl, rfl, hkept,
      fun hno => absurd (by simpa using hno) hpoll, fun _ => by constructor <;> rfl⟩

/-! ### The short reads (R130, R135, R163, R170, R262) -/

/-- What a status read has left alone before it ends its step: the ids, the registers of the end, scratch, the free
draws, the poll's continuation and the raced reads; the page counts unless it ends a program poll; and in SINGLE what
only a poll counts and decodes. -/
structure StatusReadKept (s w : State) : Prop where
  ids : IdsKept s w
  ending : EndKept s w
  scratch : w.seq.scratch = s.seq.scratch
  draws : w.draws = s.draws
  ret : w.seq.ret = s.seq.ret
  racedReads : w.racedReads = s.racedReads
  pages : s.seq.ret ≠ .prog ∨ s.seq.phase = .single → w.regs.pagesDone = s.regs.pagesDone ∧ w.seq.cur = s.seq.cur
  single : s.seq.phase = .single → w.regs.pollCount = s.regs.pollCount ∧ w.regs.lastEcc = s.regs.lastEcc ∧
    w.regs.eccMax = s.regs.eccMax ∧ w.regs.eccCorrCount = s.regs.eccCorrCount

/-- A poll's Ready ends the step, a program poll's after its page is counted (R165). -/
theorem continuePoll_cases (w : State) :
    Closes w (continuePoll w) ∨ w.seq.ret = .prog ∧ Closes (countPage w) (continuePoll w) := by
  unfold continuePoll
  split
  · exact .inl (closes_finishOk w)
  · exact .inl (closes_finishOk w)
  · exact .inl (closes_setPhase _ w)
  · exact .inr ⟨‹_›, closes_pageComplete w⟩
  · exact .inl (closes_finishOk w)

theorem pollReceive_closes (b : Byte) (s : State) : Closes (decodeStatus b s) (pollReceive b s) ∨
    s.seq.ret = .prog ∧ Closes (countPage (decodeStatus b s)) (pollReceive b s) := by
  rcases pollReceive_cases b s with ⟨-, -, h⟩ | ⟨-, -, h⟩ | ⟨e, -, h⟩ | ⟨v, -, h⟩ <;> rw [h]
  · exact .inl (closes_setPhase _ _)
  · exact .inl (closes_raiseError _ _ _)
  · exact .inl (closes_raiseError _ _ _)
  · exact continuePoll_cases (decodeStatus b s)

theorem statusReadKept_refl (s : State) : StatusReadKept s s :=
  ⟨by constructor <;> rfl, by constructor <;> rfl, rfl, rfl, rfl, rfl, fun _ => ⟨rfl, rfl⟩,
    fun _ => ⟨rfl, rfl, rfl, rfl⟩⟩

/-- In a poll nothing is asked of POLL_COUNT and the ECC registers, which its read counts and decodes (R162, R163). -/
theorem statusReadKept_of_poll (hp : s.seq.phase = .pollRead) (hids : IdsKept s w) (hend : EndKept s w)
    (hseq : w.seq = s.seq) (hdraws : w.draws = s.draws) (hraced : w.racedReads = s.racedReads)
    (hdone : w.regs.pagesDone = s.regs.pagesDone) : StatusReadKept s w where
  ids := hids
  ending := hend
  scratch := congrArg Seq.scratch hseq
  draws := hdraws
  ret := congrArg Seq.ret hseq
  racedReads := hraced
  pages _ := ⟨hdone, congrArg Seq.cur hseq⟩
  single hsingle := by cases hp.symm.trans hsingle

/-- A counted and decoded status read changes the decode registers and the two counts alone (R162, R163). -/
theorem statusReadKept_decodeStatus {i : Instr} (b : Byte) (hp : s.seq.phase = .pollRead) :
    StatusReadKept s (decodeStatus b (afterFrame i (countAttempt s))) :=
  statusReadKept_of_poll hp (by constructor <;> simp) (by constructor <;> simp) rfl rfl rfl (by simp)

theorem StatusReadKept.countPage (h : StatusReadKept s w) (hp : s.seq.phase = .pollRead) (hret : s.seq.ret = .prog) :
    StatusReadKept s (countPage w) :=
  { h with
    ids := { h.ids with }
    ending := { h.ending with }
    pages := fun hno => hno.elim (absurd hret) fun hsingle => by cases hp.symm.trans hsingle
    single := fun hsingle => by cases hp.symm.trans hsingle }

/-- A status read ends its step after the budget's check, a ChannelError, or the byte (R163, R170). -/
theorem exec_fGetStatus_cases {a : Byte} (h : exec (.fGetStatus a) s = .next t) :
    ∃ w, StatusReadKept s w ∧ Closes w t := by
  obtain ⟨hp, rfl⟩ | ⟨hp, rfl⟩ := execFGetStatus_next h
  · unfold pollAttempt
    split
    · exact ⟨s, statusReadKept_refl s, closes_raiseError _ _ s⟩
    · rcases sendFrame_cases (.fGetStatus a) (pollPage s) (fun r u => pollReceive (r.headD 0) u) (countAttempt s) with
        ⟨-, hs⟩ | ⟨r, -, -, hs⟩ <;> rw [hs]
      · exact ⟨afterFrame _ (countAttempt s), statusReadKept_of_poll hp (by constructor <;> rfl)
          (by constructor <;> rfl) rfl rfl rfl rfl, closes_raiseError _ _ _⟩
      · have hkept := statusReadKept_decodeStatus (i := .fGetStatus a) (r.headD 0) hp
        rcases pollReceive_closes (r.headD 0) (afterFrame (.fGetStatus a) (countAttempt s)) with hc | ⟨hret, hc⟩
        · exact ⟨_, hkept, hc⟩
        · exact ⟨_, hkept.countPage hp hret, hc⟩
  · rcases sendFrame_cases (.fGetStatus a) none (fun r u => finishOk (setStatusRaw (r.headD 0) u)) s with
      ⟨-, hs⟩ | ⟨r, -, -, hs⟩ <;> rw [hs]
    · exact ⟨afterFrame _ s,
        { statusReadKept_refl s with ids := by constructor <;> rfl, ending := by constructor <;> rfl },
        closes_raiseError _ _ _⟩
    · exact ⟨setStatusRaw _ (afterFrame _ s),
        { statusReadKept_refl s with ids := by constructor <;> rfl, ending := by constructor <;> rfl },
        closes_finishOk _⟩

theorem EndKept.trans (h : EndKept s t) (k : EndKept t u) : EndKept s u where
  busy := k.busy.trans h.busy
  done := k.done.trans h.done
  err := k.err.trans h.err
  errCode := k.errCode.trans h.errCode
  pageValid := k.pageValid.trans h.pageValid
  failPage := k.failPage.trans h.failPage

/-- Settles O23: a status read writes its byte's registers and the counts, a read-ID frame the ids, before the step's
end. -/
theorem frameOfShortReads : Obligations.FrameOfShortReads := by
  constructor
  · intro a s t h
    have hmem := mem_exec h nofun
    have hhost := hostSideKept_exec h
    obtain ⟨w, hkept, r, ph, rfl, hend⟩ := exec_fGetStatus_cases h
    exact ⟨hhost, { hkept.ids with }, fun x => congrArg (memByte · x) hmem, hkept.scratch, hkept.draws, hkept.ret,
      hkept.racedReads, hkept.pages, hkept.single, fun hp => hkept.ending.trans (hend hp)⟩
  · intro s t h
    refine ⟨hostSideKept_exec h, ?_⟩
    obtain ⟨-, rfl⟩ := execFReadId_next h
    rcases sendFrame_cases .fReadId none (fun r u => finishOk (setIds r u)) s with ⟨-, hs⟩ | ⟨r, -, -, hs⟩ <;> rw [hs]
    · exact ⟨by constructor <;> rfl, fun _ => rfl, rfl, rfl, rfl, rfl, rfl, rfl, rfl, fun _ => by constructor <;> rfl⟩
    · exact ⟨by constructor <;> rfl, fun _ => rfl, rfl, rfl, rfl, rfl, rfl, rfl, rfl, fun hcode => absurd rfl hcode⟩

end Sys2Proof.Machine
end

section
/-! SUPPORT. The host's program text as moves (R140, R141), and a whole run of PROGRAM_PAGE (R195 to R198). -/

namespace Sys2Proof.Machine

variable {s t : State}

/-! ### The host's program text (R140, R141) -/

/-- The map's offsets are whole words of the window (R23). -/
theorem regOffset_word (r : Reg) : regOffset r % 4 = 0 ∧ regOffset r < 256 := by cases r <;> decide

/-- `wr NAME, v` is a write of `v` to that register (R140). -/
theorem step_wr {r : Reg} {v : Word} {rest : List Input} (hwf : s.params.wf = true) (hin : s.inputs = wr r v :: rest) :
    step s = .next (writeReg r v { s with inputs := rest }) := by
  obtain ⟨halign, hwin⟩ := regOffset_word r
  rw [step_regWrite hwf halign hwin hin, writeOffset_regOffset]

/-- `rd NAME` is a read of that register (R140). -/
theorem step_rd {r : Reg} {rest : List Input} (hwf : s.params.wf = true) (hin : s.inputs = rd r :: rest) :
    step s = .next { s with inputs := rest, readData := some (readReg s r) } := by
  obtain ⟨halign, hwin⟩ := regOffset_word r
  rw [step_regRead hwf halign hwin hin, readOffset_regOffset]

/-- The word that `nfc.set_status a, v` writes to REG_ARG has `a` and `v` in its two fields (R33, R141). -/
theorem regArg_fields (a v : Byte) :
    (v.setWidth 32 <<< 8 ||| a.setWidth 32 : Word).extractLsb' 0 8 = a ∧
    (v.setWidth 32 <<< 8 ||| a.setWidth 32 : Word).extractLsb' 8 8 = v := by
  constructor <;> ext k hk
  · have hk' : k < 32 := by omega
    simp [hk, hk']
  · have hk8 : 8 + k < 32 := by omega
    simp [hk8, BitVec.getLsbD_eq_getElem hk]

/-- Settles O38: each line of host text is one planned move, and the two writes of `nfc.set_status` fill REG_ARG and
are accepted. -/
theorem hostNotationMoves : Obligations.HostNotationMoves := by
  refine ⟨fun s rest hwf hin => ?_, fun s r v rest hwf hin => step_wr hwf hin, fun s r rest hwf hin => step_rd hwf hin,
    fun s a v rest hwf hb hin => ?_⟩
  · have hstep : step s = .next { s with
        readData := some (readOffset s 0x04)
        inputs := if s.regs.done then rest else .nfc :: .waitDone :: rest } := step_of_input hwf hin
    exact ⟨fun hdone => by rw [hstep, if_pos hdone], fun hdone => by rw [hstep, if_neg (by rw [hdone]; decide)]⟩
  · obtain ⟨haddr, hvalue⟩ := regArg_fields a v
    have harg := step_wr (r := .regArg) (rest := wr .cmd 0x04 :: .waitDone :: rest) hwf hin
    rw [writeReg, writeParam_of_idle _ (by exact hb), haddr, hvalue] at harg
    have hcmd := step_accept (s := { s with
      regs := { s.regs with regAddr := a, regValue := v }, inputs := wr .cmd 0x04 :: .waitDone :: rest }) hwf hb rfl
    exact ⟨_, (run_succ harg).trans (run_succ hcmd), rfl, rfl, rfl, rfl, rfl⟩

/-! ### PROGRAM_PAGE (R195 to R198) -/

/-- Settles O54: START, the page's frames, and its end, over a channel with its answers prepared. -/
theorem programPageSendsThePage : Obligations.ProgramPageSendsThePage := by
  intro s bs b rest hs hrange hbusy hready hmax hdev
  have hwant : pagesWanted s = 1 := by rw [pagesWanted, hs.word]; rfl
  have hstart := controllerStep_start_pages hs.phase (i := .programPage) (by rw [hs.word]; rfl) rfl hrange Nat.one_pos
  have hon : OnPage (atFirstPage .wrEnable s) := onPage_atFirstPage (hwant ▸ hrange) (hwant ▸ Nat.one_pos) hs.pagesDone
  have hunit : loadUnit (atFirstPage .wrEnable s) = slotUnit s 0 := by
    rw [loadUnit_of_no_race (by exact hs.race)]
    simp [atFirstPage, slotUnit]
  rw [← programScript_responses s.params.profile s.regs.startPage.toNat (slotUnit s 0)] at hdev
  obtain ⟨c, hans⟩ := answers_of_prepared (P := s.params.profile) hdev (programScript_lengths _ _ _ _ _)
  obtain ⟨v, hrun, hprog, hcount⟩ := controllerRun_programPage (s := atFirstPage .wrEnable s) rfl
    (by exact hs.word ▸ by decide) (hon.rowFits hs.params_wf) hon.slotFits hbusy hready hmax
    (by rw [hunit]; exact hans)
  rw [pageComplete_single (.inr (hprog.host.word.trans hs.word))] at hrun
  have hend := hprog.countPage.finishOk
  refine ⟨_, run_of_controllerRun hs.params_wf (.inl hs.inputs) ⟨_, hstart, hrun⟩, endedOk_finishOk _, ?_, hcount, ?_,
    ?_, hend.mem⟩
  · exact hend.pagesDone.trans (by rw [atFirstPage_regs, hs.pagesDone]; rfl)
  · exact hend.txnCount.trans (by rw [atFirstPage_regs, hs.txnCount]; exact BitVec.zero_add _)
  · rw [hend.chan, answers_sent hans, programScript_frames]

end Sys2Proof.Machine
end

section
/-! SUPPORT. The status poller step by step (R161 to R165): the decode's order, where Ready goes, and which step enters
the delay. -/

namespace Sys2Proof.Machine

variable {s t : State}

/-! ### The START steps without a range (R163, R168, R170, R260 to R268) -/

/-- Settles O10: a one-frame command's and RESET's START step set the phase, POLL's begins its poll. -/
theorem startOfDeviceCommands : Obligations.StartOfDeviceCommands := by
  refine ⟨fun s i hi => ?_, fun s => ⟨rfl, rfl⟩⟩
  simp only [List.mem_cons, List.not_mem_nil, or_false] at hi
  rcases hi with rfl | rfl | rfl | rfl | rfl <;> rfl

/-! ### The decode's order (R161) -/

theorem decodeOutcome_efail {P : Profile} {b : Byte} (fatal : Bool) (hbusy : b &&& P.busyMask = 0)
    (hefail : b &&& P.efailMask ≠ 0) : decodeOutcome P fatal b = .fail .eraseFailure :=
  (if_neg (by simp [statusBusy, hbusy])).trans (if_pos (decide_eq_true hefail))

theorem decodeOutcome_pfail {P : Profile} {b : Byte} (fatal : Bool) (hbusy : b &&& P.busyMask = 0)
    (hefail : b &&& P.efailMask = 0) (hpfail : b &&& P.pfailMask ≠ 0) :
    decodeOutcome P fatal b = .fail .programFailure :=
  (if_neg (by simp [statusBusy, hbusy])).trans
    ((if_neg (by simp [statusEfail, hefail])).trans (if_pos (decide_eq_true hpfail)))

/-- The outcome of a decode that reaches the ECC field, by the policy bit and the severity (R161). -/
def eccOutcome (fatal : Bool) : Severity → Decoded
  | .uncorrectable => .fail .uncorrectableEcc
  | .corrected => if fatal then .fail .correctedEccFatal else .ready .corrected
  | .noError => .ready .noError

theorem eccOutcome_ready {fatal : Bool} {v w : Severity} (h : eccOutcome fatal w = .ready v) : w = v := by
  cases w <;> cases fatal <;> cases h <;> rfl

theorem reachesEcc_iff {P : Profile} {b : Byte} :
    reachesEcc P b = true ↔ b &&& P.busyMask = 0 ∧ b &&& P.efailMask = 0 ∧ b &&& P.pfailMask = 0 := by
  simp [reachesEcc, statusBusy, statusEfail, statusPfail, and_assoc]

theorem decodeOutcome_of_reachesEcc {P : Profile} {b : Byte} (fatal : Bool) (h : reachesEcc P b = true) :
    decodeOutcome P fatal b = eccOutcome fatal (severity P b) := by
  obtain ⟨hbusy, hefail, hpfail⟩ := reachesEcc_iff.mp h
  simp only [decodeOutcome, statusBusy, statusEfail, statusPfail, hbusy, hefail, hpfail, ne_eq, not_true_eq_false,
    decide_false]
  cases severity P b <;> rfl

/-- Short of the ECC field the decode writes STATUS_RAW alone (R162). -/
theorem decodeRegs_of_not_reachesEcc {P : Profile} {b : Byte} (r : Regs) (h : reachesEcc P b ≠ true) :
    decodeRegs P b r = { r with statusRaw := b } := if_neg h

/-- Only the ECC field reports Ready, and with its own severity (R161). -/
theorem decodeOutcome_ready {P : Profile} {fatal : Bool} {b : Byte} {v : Severity}
    (h : decodeOutcome P fatal b = .ready v) : reachesEcc P b = true ∧ severity P b = v := by
  have hecc : reachesEcc P b = true := by
    refine reachesEcc_iff.mpr ?_
    by_cases hbusy : b &&& P.busyMask = 0
    · by_cases hefail : b &&& P.efailMask = 0
      · by_cases hpfail : b &&& P.pfailMask = 0
        · exact ⟨hbusy, hefail, hpfail⟩
        · cases (decodeOutcome_pfail fatal hbusy hefail hpfail).symm.trans h
      · cases (decodeOutcome_efail fatal hbusy hefail).symm.trans h
    · cases (decodeOutcome_busy fatal hbusy).symm.trans h
  exact ⟨hecc, eccOutcome_ready ((decodeOutcome_of_reachesEcc fatal hecc).symm.trans h)⟩

/-- Settles O28: busy, erase-fail and program-fail in turn, and the ECC field where none of them applies. -/
theorem decodeOrder : Obligations.DecodeOrder := by
  intro P fatal b r
  refine ⟨decodeOutcome_busy fatal, decodeOutcome_efail fatal, decodeOutcome_pfail fatal,
    fun hbusy hefail hpfail => ?_, fun hset => decodeRegs_of_not_reachesEcc r fun hecc => ?_⟩
  · have hecc := decodeOutcome_of_reachesEcc fatal (reachesEcc_of_clear hbusy hefail hpfail)
    refine ⟨fun hv => ?_, fun hv hfatal => ?_, fun hv hfatal => ?_, fun hv => ?_⟩ <;> rw [hecc, hv]
    · rfl
    · rw [hfatal]; rfl
    · rw [hfatal]; rfl
    · rfl
  · obtain ⟨hbusy, hefail, hpfail⟩ := reachesEcc_iff.mp hecc
    simp [hbusy, hefail, hpfail] at hset

/-! ### Acting on a decoded byte (R163, R165) -/

theorem pollReceive_fail {b : Byte} {e : ErrCode} (h : decodeOutcome s.params.profile s.regs.eccCorrFatal b = .fail e) :
    pollReceive b s = raiseError e (pollPage s) (decodeStatus b s) := by
  rw [pollReceive, h]
  rfl

theorem pollReceive_ready {b : Byte} {v : Severity}
    (h : decodeOutcome s.params.profile s.regs.eccCorrFatal b = .ready v) :
    pollReceive b s = continuePoll (decodeStatus b s) := by
  rw [pollReceive, h]
  rfl

/-- A busy byte at the end of the budget is a TIMEOUT (R166). -/
theorem pollReceive_timeout {b : Byte} (hb : b &&& s.params.profile.busyMask ≠ 0)
    (hspent : s.regs.maxAttempts.toNat ≤ s.regs.pollCount.toNat) :
    pollReceive b s = raiseError .timeout (pollPage s) (decodeStatus b s) := by
  have hmax : ¬ (decodeStatus b s).regs.pollCount.toNat < (decodeStatus b s).regs.maxAttempts.toNat := by
    simpa using hspent
  rw [pollReceive, decodeOutcome_busy _ hb, pollDecide, if_neg hmax]
  rfl

/-- Where no page follows, Ready ends the command (R165). -/
theorem continuePoll_ends (h : s.seq.ret = .poll ∨ s.seq.ret = .reset ∨ s.seq.ret = .erase) :
    continuePoll s = finishOk s := by
  rcases h with h | h | h <;> rw [continuePoll, h]

/-- Settles O27: the continuation by `st.ret`, and LAST_ECC from the decode that reports Ready. -/
theorem readyContinuesByReturn : Obligations.ReadyContinuesByReturn := by
  refine ⟨fun s => ⟨fun h => continuePoll_ends (.inl h), fun h => continuePoll_ends (.inr (.inl h)), continuePoll_read,
    continuePoll_prog, fun h => continuePoll_ends (.inr (.inr h))⟩, fun s b v h => ⟨pollReceive_ready h, ?_⟩⟩
  obtain ⟨hecc, hsev⟩ := decodeOutcome_ready h
  rw [decodeStatus_regs, decodeRegs_eq, ← hsev]
  exact if_pos hecc

/-! ### The delay (R164) -/

theorem startPages_phase_ne_pollDelay {count : Nat} {first : Phase} (s : State) (h : first ≠ .pollDelay) :
    (startPages count first s).seq.phase ≠ .pollDelay := by
  rcases startPages_cases count first s with ⟨-, hs⟩ | ⟨-, -, hs⟩ | ⟨-, -, hs⟩ <;> rw [hs]
  · exact nofun
  · exact nofun
  · exact h

theorem pageComplete_phase_ne_pollDelay (s : State) : (pageComplete s).seq.phase ≠ .pollDelay := by
  rcases pageComplete_cases s with h | ⟨-, -, -, ⟨-, h⟩ | ⟨-, h⟩⟩ <;> rw [h] <;> exact nofun

theorem continuePoll_phase_ne_pollDelay (s : State) : (continuePoll s).seq.phase ≠ .pollDelay := by
  unfold continuePoll
  split
  case h_4 => exact pageComplete_phase_ne_pollDelay s
  all_goals exact nofun

theorem sendFrame_phase_ne_pollDelay {i : Instr} {page : Option Nat} {k : List Byte → State → State} (s : State)
    (hk : ∀ r u, (k r u).seq.phase ≠ .pollDelay) : (sendFrame i page k s).seq.phase ≠ .pollDelay := by
  rcases sendFrame_cases i page k s with ⟨-, h⟩ | ⟨r, -, -, h⟩ <;> rw [h]
  · exact nofun
  · exact hk r _

/-- An attempt that asks for a delay has counted its read, and some of the budget is left (R163). -/
theorem pollAttempt_pollDelay {i : Instr} (h : (pollAttempt i s).seq.phase = .pollDelay) :
    (pollAttempt i s).regs.pollCount = s.regs.pollCount + 1 ∧
      s.regs.pollCount.toNat + 1 < s.regs.maxAttempts.toNat := by
  unfold pollAttempt at h ⊢
  split at h
  case isTrue => cases h
  case isFalse hleft =>
    rw [if_neg hleft]
    rcases sendFrame_cases i (pollPage s) (fun r u => pollReceive (r.headD 0) u) (countAttempt s) with
      ⟨-, hs⟩ | ⟨r, -, -, hs⟩ <;> rw [hs] at h ⊢
    · cases h
    · rcases pollReceive_cases (r.headD 0) (afterFrame i (countAttempt s)) with
        ⟨-, hlt, hr⟩ | ⟨-, -, hr⟩ | ⟨e, -, hr⟩ | ⟨v, -, hr⟩ <;> rw [hr] at h ⊢
      · refine ⟨by simp, ?_⟩
        rw [← countAttempt_pollCount (Nat.lt_of_not_le hleft)]
        exact hlt
      · cases h
      · cases h
      · exact absurd h (continuePoll_phase_ne_pollDelay _)

/-- Only a poll's attempt leads to a delay (R163, R164). -/
theorem exec_pollDelay {i : Instr} (h : exec i s = .next t) (ht : t.seq.phase = .pollDelay) :
    s.seq.phase = .pollRead ∧ t = pollAttempt i s := by
  cases i with
  | fGetStatus a =>
    obtain ⟨hp, rfl⟩ | ⟨-, rfl⟩ := execFGetStatus_next h
    · exact ⟨hp, rfl⟩
    · exact absurd ht (sendFrame_phase_ne_pollDelay s fun _ _ => nofun)
  | reset => cases h; cases ht
  | identify => cases h; cases ht
  | getStatus => cases h; cases ht
  | setStatus => cases h; cases ht
  | writeEnable => cases h; cases ht
  | writeDisable => cases h; cases ht
  | poll => cases h; cases ht
  | readPage => cases h; exact absurd ht (startPages_phase_ne_pollDelay s nofun)
  | programPage => cases h; exact absurd ht (startPages_phase_ne_pollDelay s nofun)
  | readRange => cases h; exact absurd ht (startPages_phase_ne_pollDelay s nofun)
  | programRange => cases h; exact absurd ht (startPages_phase_ne_pollDelay s nofun)
  | eraseBlock => rcases execEraseBlock_cases s with ⟨-, he⟩ | he <;> cases he.symm.trans h <;> cases ht
  | fPageReadToCache p =>
    obtain ⟨-, -, rfl⟩ := execFPageReadToCache_next h
    exact absurd ht (sendFrame_phase_ne_pollDelay s fun _ _ => nofun)
  | fReadFromCache =>
    obtain ⟨-, -, rfl⟩ := execFReadFromCache_next h
    exact absurd ht (sendFrame_phase_ne_pollDelay s fun _ _ => pageComplete_phase_ne_pollDelay _)
  | fProgramLoad d =>
    obtain ⟨-, -, -, rfl⟩ := execFProgramLoad_next h
    exact absurd ht (sendFrame_phase_ne_pollDelay _ fun _ _ => nofun)
  | fProgramExecute p =>
    obtain ⟨-, -, rfl⟩ := execFProgramExecute_next h
    exact absurd ht (sendFrame_phase_ne_pollDelay s fun _ _ => nofun)
  | fBlockErase p =>
    obtain ⟨-, -, rfl⟩ := execFBlockErase_next h
    exact absurd ht (sendFrame_phase_ne_pollDelay s fun _ _ => nofun)
  | fSetStatus a v =>
    obtain ⟨-, rfl⟩ := execFSetStatus_next h
    exact absurd ht (sendFrame_phase_ne_pollDelay s fun _ _ => nofun)
  | fReset =>
    obtain ⟨-, rfl⟩ := execFReset_next h
    exact absurd ht (sendFrame_phase_ne_pollDelay s fun _ _ => nofun)
  | fWriteEnable =>
    obtain ⟨-, rfl⟩ | ⟨-, rfl⟩ := execFWriteEnable_next h
    · refine absurd ht (sendFrame_phase_ne_pollDelay s fun _ u => ?_)
      show (if cmdCode u.seq.word = 0x12 then Phase.erErase else .wrLoad) ≠ .pollDelay
      split <;> exact nofun
    · exact absurd ht (sendFrame_phase_ne_pollDelay s fun _ _ => nofun)
  | fWriteDisable =>
    obtain ⟨-, rfl⟩ := execFWriteDisable_next h
    exact absurd ht (sendFrame_phase_ne_pollDelay s fun _ _ => nofun)
  | fReadId =>
    obtain ⟨-, rfl⟩ := execFReadId_next h
    exact absurd ht (sendFrame_phase_ne_pollDelay s fun _ _ => nofun)

/-- Settles O50: the delay's own step, and the inversion of the step that enters it. -/
theorem delayOnlyBetweenReads : Obligations.DelayOnlyBetweenReads := by
  refine ⟨fun s hp => controllerStep_pollDelay hp, fun s t h ht => ?_⟩
  have hexec {i : Instr} (hi : exec i s = .next t) : s.seq.phase = .pollRead ∧
      t.regs.pollCount = s.regs.pollCount + 1 ∧ s.regs.pollCount.toNat + 1 < s.regs.maxAttempts.toNat := by
    obtain ⟨hp, rfl⟩ := exec_pollDelay hi ht
    exact ⟨hp, pollAttempt_pollDelay ht⟩
  rcases controllerStep_next h with ⟨hp, rfl⟩ | ⟨-, i, -, hi⟩ | ⟨-, rfl⟩ | ⟨-, rfl⟩ | ⟨i, -, hi⟩
  · cases hp.symm.trans ht
  · exact hexec hi
  · cases ht
  · cases ht
  · exact hexec hi

end Sys2Proof.Machine
end

section
/-! SUPPORT. Whole polls with their outcome (R163, R166, R167), and the runs of the commands that poll and transfer no
page: POLL, RESET and ERASE_BLOCK (R168, R200, R201, R260). -/

namespace Sys2Proof.Machine

variable {s t u v : State}

/-! ### A poll to its outcome (R163, R166, R167) -/

/-- A channel whose prepared answers begin with those of a script holds the others after it (R80). -/
theorem answers_rest {P : Profile} {l : List (Instr × List Byte)} {rest : List Answer} {c c' : Channel}
    (hdev : c.dev = .oracle (l.map (fun e => Answer.bytes e.2) ++ rest)) (h : Answers P c l c') :
    c'.dev = .oracle rest := by
  induction l generalizing c with
  | nil => obtain rfl := h; exact hdev
  | cons e l ih =>
    refine ih ?_ h.2
    rw [channelAfter, deviceReply, hdev]
    rfl

/-- Prepared status bytes answer as many status reads, and the other answers are left (R80, R130). -/
theorem answers_statusScript {P : Profile} {bs : List Byte} {rest : List Answer} {c : Channel}
    (hdev : c.dev = .oracle (statusAnswers bs ++ rest)) :
    ∃ c', Answers P c (statusScript P bs) c' ∧ c'.dev = .oracle rest := by
  rw [← statusScript_responses P] at hdev
  obtain ⟨c', hans⟩ := answers_of_prepared hdev (statusScript_lengths P bs)
  exact ⟨c', hans, answers_rest hdev hans⟩

/-- An attempt's read, counted and answered, is one Transceive (R38, R163). -/
theorem progress_countedFrame (i : Instr) (s : State) :
    Progress s 0 1 (channelAfter s.params.profile s.chan i) s.mem (afterFrame i (countAttempt s)) :=
  { progress_afterFrame i (countAttempt s) with
    host := .of_side ((hostSideKept_countAttempt s).trans (hostSideKept_afterFrame i _)) }

/-- A poll that meets `bs.length` busy bytes within the budget receives the next byte one step after them, counted
(R163, R167). -/
theorem controllerRun_receive {bs : List Byte} {b : Byte} {c : Channel} (hp : s.seq.phase = .pollRead)
    (hbusy : AllBusy s.params.profile bs) (hmax : s.regs.pollCount.toNat + bs.length < s.regs.maxAttempts.toNat)
    (hans : Answers s.params.profile s.chan (statusScript s.params.profile (bs ++ [b])) c) :
    ∃ u, ControllerRun (2 * bs.length + 1) s (pollReceive b u) ∧ u.seq = s.seq ∧
      u.regs.pollCount.toNat = s.regs.pollCount.toNat + (bs.length + 1) ∧ Progress s 0 (bs.length + 1) c s.mem u := by
  rw [statusScript, List.map_append] at hans
  obtain ⟨c₁, hans₁, hans₂⟩ := answers_append.mp hans
  obtain ⟨t, hrun, hseq, hcount, hprog, -⟩ := controllerRun_busyReads hp hbusy hmax hans₁
  rw [← hprog.chan, ← hprog.host.params] at hans₂
  obtain ⟨hans₂, rfl⟩ := hans₂
  have hlt : (atMove t).regs.pollCount.toNat < (atMove t).regs.maxAttempts.toNat := by
    rw [atMove_regs, hprog.host.maxAttempts, hcount]; exact hmax
  have hread : controllerStep (atMove t)
      = .next (pollReceive b (afterFrame (statusRead t.params.profile) (countAttempt (atMove t)))) :=
    controllerStep_pollRead (by rw [atMove_seq, hseq, hp]) hlt hans₂
  have htrans := hprog.trans (progress_countedFrame (statusRead t.params.profile) (atMove t)).of_atMove
  rw [atMove_mem, hprog.mem] at htrans
  refine ⟨_, hrun.trans (.one hread), hseq, ?_, htrans⟩
  rw [afterFrame_regs, countAttempt_pollCount hlt, atMove_regs, hcount, Nat.add_assoc]

/-- Whatever a received byte leads to, the count, the byte and the channel stay (R162, R163). -/
theorem pollReceive_kept (b : Byte) (s : State) : (pollReceive b s).regs.pollCount = s.regs.pollCount ∧
    (pollReceive b s).regs.statusRaw = b ∧ (pollReceive b s).chan = s.chan := by
  rcases pollReceive_closes b s with ⟨r, ph, h, -⟩ | ⟨-, r, ph, h, -⟩ <;> rw [h] <;>
    exact ⟨by simp [closedAs], by simp [closedAs], rfl⟩

/-- With the plan as it was, all of the host's side is kept. -/
theorem HostKept.hostSideKept (h : HostKept s t) (hin : t.inputs = s.inputs) : HostSideKept s t := by
  have hside := h.side
  rwa [hin] at hside

theorem pollPage_of_seq (h : t.seq = s.seq) : pollPage t = pollPage s := by
  rw [pollPage, pollPage, h]

/-- A poll's errors carry a page exactly in a page command (R163). -/
theorem pollPage_isSome (s : State) : (pollPage s).isSome = true ↔ s.seq.ret ≠ .poll ∧ s.seq.ret ≠ .reset := by
  unfold pollPage
  cases s.seq.ret <;> simp

/-- A poll whose last read within the budget is busy too raises TIMEOUT at that read (R166). -/
theorem controllerRun_timeout {bs : List Byte} {b : Byte} {c : Channel} (hp : s.seq.phase = .pollRead)
    (hbusy : AllBusy s.params.profile (bs ++ [b]))
    (hmax : s.regs.pollCount.toNat + (bs.length + 1) = s.regs.maxAttempts.toNat)
    (hans : Answers s.params.profile s.chan (statusScript s.params.profile (bs ++ [b])) c) :
    ∃ u, ControllerRun (2 * bs.length + 1) s (raiseError .timeout (pollPage s) u) ∧
      u.regs.pollCount = s.regs.maxAttempts ∧ u.chan = c := by
  obtain ⟨hbs, hb⟩ := List.forall_mem_append.mp hbusy
  obtain ⟨u, hrun, hseq, hcount, hprog⟩ := controllerRun_receive hp hbs (by omega) hans
  have hspent : u.regs.pollCount = s.regs.maxAttempts := BitVec.eq_of_toNat_eq (hcount.trans hmax)
  rw [pollReceive_timeout (by rw [hprog.host.params]; exact hb b (List.mem_singleton_self b))
    (by rw [hprog.host.maxAttempts, hspent]), pollPage_of_seq hseq] at hrun
  exact ⟨_, hrun, by rw [decodeStatus_regs, decodeRegs_pollCount, hspent], hprog.chan⟩

/-- Settles O51: the busy reads below the budget, and then the byte that ends or continues the poll; at the budget that
byte is the last of the busy ones. -/
theorem pollIsBounded : Obligations.PollIsBounded := by
  intro s bs rest hwf hin hp hzero hbusy
  have hcount₀ : s.regs.pollCount.toNat = 0 := congrArg BitVec.toNat hzero
  refine ⟨fun hmax hdev => ?_, fun hmax hpos hdev => ?_, fun b hmax hdev _ => ?_⟩
  · obtain ⟨c, hans, hrest⟩ := answers_statusScript (P := s.params.profile) hdev
    obtain ⟨t, hrun, hseq, hcount, hprog, heccMax, hlastEcc⟩ := controllerRun_busyReads hp hbusy (by omega) hans
    have hinputs : t.inputs = s.inputs := by rw [hrun.inputs, hin, List.drop_nil]
    exact ⟨t, run_of_controllerRun hwf (.inl hin) hrun, hseq, by omega, hprog.chan ▸ hrest, hprog.mem, hprog.txnCount,
      heccMax, hlastEcc, hprog.host.hostSideKept hinputs⟩
  · obtain ⟨bs, b, rfl⟩ := (List.eq_nil_or_concat' bs).resolve_left (List.ne_nil_of_length_pos hpos)
    rw [List.length_append, List.length_singleton] at hmax ⊢
    obtain ⟨c, hans, hrest⟩ := answers_statusScript (P := s.params.profile) hdev
    obtain ⟨u, hrun, hspent, hchan⟩ := controllerRun_timeout hp hbusy (by omega) hans
    exact ⟨_, run_of_controllerRun hwf (.inl hin) hrun, rfl, rfl, rfl, hspent, hchan ▸ hrest, pollPage_isSome s⟩
  · obtain ⟨c, hans, hrest⟩ := answers_statusScript (P := s.params.profile) hdev
    obtain ⟨u, hrun, hseq, hcount, hprog⟩ := controllerRun_receive hp hbusy (by omega) hans
    obtain ⟨hpoll, hraw, hchan⟩ := pollReceive_kept b u
    refine ⟨_, run_of_controllerRun hwf (.inl hin) hrun, by rw [hpoll]; omega, hraw, by rw [hchan, hprog.chan, hrest],
      fun e he => ?_, fun hready => ?_⟩
    · rw [pollReceive_fail (e := e) (by rw [hprog.host.params, hprog.host.eccCorrFatal]; exact he)]
      exact ⟨rfl, rfl, rfl⟩
    · obtain ⟨v, hv⟩ := reportsReady_of_kept hready hprog.host
      have hret : (decodeStatus b u).seq.ret = s.seq.ret := congrArg Seq.ret hseq
      rw [pollReceive_ready hv]
      refine ⟨fun h => ?_, fun h => ?_, fun h => ?_⟩
      · rw [continuePoll_ends (by rwa [hret])]
        exact endedOk_finishOk _
      · rw [continuePoll_read (hret.trans h)]
        rfl
      · rw [continuePoll_prog (hret.trans h), pageComplete_pagesDone, decodeStatus_regs, decodeRegs_pagesDone,
          hprog.pageKept.pagesDone]

/-! ### POLL, RESET and ERASE_BLOCK (R168, R200, R201, R260) -/

/-- The frames of a command that polls, each with its response: `pre` without one, then the poll that meets `bs` and
then `b`. -/
def pollScript (P : Profile) (pre : List Instr) (bs : List Byte) (b : Byte) : List (Instr × List Byte) :=
  pre.map (fun i => (i, [])) ++ statusScript P (bs ++ [b])

theorem pollScript_responses (P : Profile) (pre : List Instr) (bs : List Byte) (b : Byte) :
    (pollScript P pre bs b).map (fun e => Answer.bytes e.2)
      = pre.map (fun _ => .bytes []) ++ statusAnswers (bs ++ [b]) := by
  rw [pollScript, List.map_append, statusScript_responses, List.map_map]
  rfl

theorem pollScript_frames (P : Profile) (pre : List Instr) (bs : List Byte) (b : Byte) :
    (pollScript P pre bs b).map Prod.fst = pre ++ List.replicate (bs.length + 1) (statusRead P) := by
  simp [pollScript, statusScript_frames, Function.comp_def]

theorem pollScript_lengths {P : Profile} {pre : List Instr} (hpre : ∀ i ∈ pre, respLen P i = 0) (bs : List Byte)
    (b : Byte) : ∀ e ∈ pollScript P pre bs b, e.2.length = respLen P e.1 := by
  intro e he
  rcases List.mem_append.mp he with he | he
  · obtain ⟨i, hi, rfl⟩ := List.mem_map.mp he
    exact (hpre i hi).symm
  · exact statusScript_lengths P _ e he

/-- Once a command that transfers no page has begun its poll, it ends at the byte that reports Ready, `2N + 1` steps
later where `N` busy reads come first (R165, R167). -/
theorem controllerRun_pollToEnd {k n : Nat} {r : Ret} {bs : List Byte} {b : Byte} {c c' : Channel} {m : Memory}
    (hrun : ControllerRun k s (beginPoll r v)) (hprog : Progress u 0 n c m v)
    (hret : r = .poll ∨ r = .reset ∨ r = .erase) (hbusy : AllBusy u.params.profile bs) (hready : ReportsReady u b)
    (hmax : bs.length < u.regs.maxAttempts.toNat)
    (hans : Answers u.params.profile c (statusScript u.params.profile (bs ++ [b])) c') :
    ∃ t, ControllerRun (k + (2 * bs.length + 1)) s t ∧ EndedOk t ∧ Progress u 0 (n + (bs.length + 1)) c' m t ∧
      t.regs.pollCount.toNat = bs.length + 1 ∧ t.regs.statusRaw = b := by
  have hbegun := hprog.beginPoll r
  rw [← hbegun.chan, ← hbegun.host.params] at hans
  obtain ⟨w, hrun', hseq, hcount, hprog'⟩ := controllerRun_receive (s := beginPoll r v) rfl
    (by rw [hbegun.host.params]; exact hbusy)
    (by rw [hbegun.host.maxAttempts]; exact (Nat.zero_add _).symm ▸ hmax) hans
  have htrans := hbegun.trans hprog'
  rw [hbegun.mem] at htrans
  obtain ⟨hpoll, hraw, -⟩ := pollReceive_kept b w
  obtain ⟨sev, hsev⟩ := reportsReady_of_kept hready htrans.host
  have hend : pollReceive b w = finishOk (decodeStatus b w) := by
    rw [pollReceive_ready hsev]
    exact continuePoll_ends (by rw [decodeStatus_seq, hseq]; exact hret)
  rw [hend] at hrun' hpoll hraw
  refine ⟨_, hrun.trans hrun', endedOk_finishOk _, ?_, by rw [hpoll, hcount]; exact Nat.zero_add _, hraw⟩
  exact Progress.finishOk { htrans with
    host := htrans.host.trans (.of_side (hostSideKept_decodeStatus b w))
    pagesDone := by simpa using htrans.pagesDone
    txnCount := by simpa using htrans.txnCount }

/-- An accepted command that sends the frames `pre`, one in each step after START, and then polls runs to its end.
`n` is the page that its START step leaves in `st.cur`. -/
theorem run_pollingCommand {cmd : Word} {r : Ret} {pre : List Instr} {bs : List Byte} {b : Byte} {rest : List Answer}
    (hs : Accepted cmd s) (hbusy : AllBusy s.params.profile bs) (hready : ReportsReady s b)
    (hmax : bs.length < s.regs.maxAttempts.toNat) (hpre : ∀ i ∈ pre, respLen s.params.profile i = 0)
    (hdev : s.chan.dev = .oracle (pre.map (fun _ => .bytes []) ++ statusAnswers (bs ++ [b]) ++ rest))
    (hret : r = .poll ∨ r = .reset ∨ r = .erase)
    (hbegin : ∀ c, Answers s.params.profile s.chan (pre.map fun i => (i, [])) c → ∃ v n,
      ControllerRun (pre.length + 1) s (beginPoll r v) ∧ Progress (setCur n s) 0 pre.length c s.mem v) :
    ∃ t, Sys2Proof.core.run (2 * bs.length + (pre.length + 2)) s = .next t ∧ EndedOk t ∧
      t.chan.sent = s.chan.sent ++ framesSent s.params.profile
        (pre ++ List.replicate (bs.length + 1) (statusRead s.params.profile)) ∧
      t.regs.pollCount.toNat = bs.length + 1 ∧ t.regs.txnCount = BitVec.ofNat 32 (bs.length + (pre.length + 1)) ∧
      t.regs.statusRaw = b ∧ t.regs.pagesDone = 0 ∧ t.mem = s.mem := by
  obtain ⟨c', hans⟩ := answers_of_prepared (P := s.params.profile) (by rw [pollScript_responses]; exact hdev)
    (pollScript_lengths hpre bs b)
  obtain ⟨c, hsent, hpoll⟩ := answers_append.mp hans
  obtain ⟨v, n, hrun, hprog⟩ := hbegin c hsent
  obtain ⟨t, hrun', hend, hprog', hcount, hraw⟩ := controllerRun_pollToEnd hrun hprog hret hbusy hready hmax hpoll
  have hsteps : pre.length + 1 + (2 * bs.length + 1) = 2 * bs.length + (pre.length + 2) := by omega
  have htxns : pre.length + (bs.length + 1) = bs.length + (pre.length + 1) := by omega
  rw [hsteps] at hrun'
  rw [htxns] at hprog'
  refine ⟨t, run_of_controllerRun hs.params_wf (.inl hs.inputs) hrun', hend, ?_, hcount, ?_, hraw, ?_, hprog'.mem⟩
  · rw [hprog'.chan, answers_sent hans, pollScript_frames]
  · rw [hprog'.txnCount, setCur_regs, hs.txnCount]
    exact BitVec.zero_add _
  · rw [hprog'.pageKept.pagesDone, setCur_regs, hs.pagesDone]

/-- ERASE_BLOCK's write-enable leads to ER_ERASE (R196, R201). -/
theorem controllerStep_wrEnable_erase {r : List Byte} (hp : s.seq.phase = .wrEnable) (hword : cmdCode s.seq.word = 0x12)
    (hans : frameAnswer .fWriteEnable s = some r) :
    controllerStep s = .next (setPhase .erErase (afterFrame .fWriteEnable s)) := by
  rw [controllerStep_frame (by rw [phaseFrame, hp]), exec_fWriteEnable_page hp, sendFrame_ok _ _ hans, afterFrame_seq,
    if_pos hword]

theorem controllerStep_erErase {r : List Byte} (hp : s.seq.phase = .erErase)
    (hrow : rowFits s.params.profile s.seq.cur = true) (hans : frameAnswer (.fBlockErase s.seq.cur) s = some r) :
    controllerStep s = .next (beginPoll .erase (afterFrame (.fBlockErase s.seq.cur) s)) := by
  rw [controllerStep_frame (by rw [phaseFrame, hp]), exec_fBlockErase hp hrow, sendFrame_ok _ _ hans]

theorem controllerStep_rstSend {r : List Byte} (hp : s.seq.phase = .rstSend) (hans : frameAnswer .fReset s = some r) :
    controllerStep s = .next (beginPoll .reset (afterFrame .fReset s)) := by
  rw [controllerStep_frame (by rw [phaseFrame, hp]), exec_fReset hp, sendFrame_ok _ _ hans]

/-- POLL's START step begins its poll (R168). -/
theorem controllerRun_beginPoll (hs : Accepted 0x07 s) : ControllerRun 1 s (beginPoll .poll (atMove s)) :=
  .one (controllerStep_start_ok (s := atMove s) (i := .poll) hs.phase (by rw [atMove_seq, hs.word]; rfl))

/-- RESET's START step leads to its frame, and that to its poll (R260). -/
theorem controllerRun_beginReset {c : Channel} (hs : Accepted 0x01 s)
    (hans : Answers s.params.profile s.chan [(.fReset, [])] c) :
    ∃ v, ControllerRun 2 s (beginPoll .reset v) ∧ Progress s 0 1 c s.mem v := by
  obtain ⟨hsend, rfl⟩ := hans
  have hstart : controllerStep (atMove s) = .next (setPhase .rstSend (atMove s)) :=
    controllerStep_start_ok (s := atMove s) (i := .reset) hs.phase (by rw [atMove_seq, hs.word]; rfl)
  have hprog := ((Progress.refl s).atMove.setPhase .rstSend).atMove
  exact ⟨_, ⟨_, hstart, .one (controllerStep_rstSend rfl hsend)⟩, hprog.trans (progress_afterFrame .fReset _)⟩

/-- ERASE_BLOCK of a page of the device enables the write, erases and begins its poll (R200, R201). -/
theorem controllerRun_beginErase {c : Channel} (hs : Accepted 0x12 s)
    (hpage : s.regs.startPage.toNat < s.params.profile.pagesTotal)
    (hans : Answers s.params.profile s.chan [(.fWriteEnable, []), (.fBlockErase s.regs.startPage.toNat, [])] c) :
    ∃ v, ControllerRun 3 s (beginPoll .erase v) ∧ Progress (setCur s.regs.startPage.toNat s) 0 2 c s.mem v := by
  obtain ⟨henable, herase, rfl⟩ := hans
  have hstart : controllerStep (atMove s) = .next (atFirstPage .wrEnable s) := by
    rw [controllerStep_start_ok (s := atMove s) (i := .eraseBlock) hs.phase (by rw [atMove_seq, hs.word]; rfl)]
    exact congrArg Host.Outcome.next (if_pos hpage)
  have hfirst := controllerStep_wrEnable_erase (s := atMove (atFirstPage .wrEnable s)) rfl
    (by show cmdCode s.seq.word = 0x12; rw [hs.word]; rfl) henable
  have hsecond := controllerStep_erErase (s := atMove (setPhase .erErase (afterFrame .fWriteEnable
    (atMove (atFirstPage .wrEnable s))))) rfl (page_fits hs.params_wf hpage).1 herase
  have hprog : Progress (setCur s.regs.startPage.toNat s) 0 0 s.chan s.mem (atMove (atFirstPage .wrEnable s)) :=
    (((Progress.refl (setCur s.regs.startPage.toNat s)).atMove).setPhase .wrEnable).atMove
  have henabled := ((hprog.trans (progress_afterFrame .fWriteEnable _)).setPhase .erErase).atMove
  exact ⟨_, ⟨_, hstart, _, hfirst, .one hsecond⟩, henabled.trans (progress_afterFrame (.fBlockErase _) _)⟩

/-- Settles O52: the frames of each command before its poll, and the poll to its end. -/
theorem pollResetAndEraseRuns : Obligations.PollResetAndEraseRuns := by
  intro s bs b rest hbusy hready hmax
  refine ⟨fun hs hdev => ?_, fun hs hdev => ?_, fun hs hpage hdev => ?_⟩
  · obtain ⟨t, hrun, hend, hsent, hcount, htxn, hraw, -, hmem⟩ := run_pollingCommand (pre := []) (r := .poll) hs hbusy
      hready hmax nofun hdev (.inl rfl)
      fun c hans => ⟨_, s.seq.cur, controllerRun_beginPoll hs, by obtain rfl := hans; exact (Progress.refl s).atMove⟩
    exact ⟨t, hrun, hend, hsent, hcount, htxn, hraw, hmem⟩
  · obtain ⟨t, hrun, hend, hsent, hcount, htxn, hraw, -, hmem⟩ := run_pollingCommand (pre := [.fReset]) (r := .reset) hs
      hbusy hready hmax (by simp [respLen]) hdev (.inr (.inl rfl)) fun c hans => by
        obtain ⟨v, hrun, hprog⟩ := controllerRun_beginReset hs hans
        exact ⟨v, s.seq.cur, hrun, hprog⟩
    exact ⟨t, hrun, hend, hsent, hcount, htxn, hraw, hmem⟩
  · obtain ⟨t, hrun, hend, hsent, hcount, htxn, -, hdone, hmem⟩ := run_pollingCommand
      (pre := [.fWriteEnable, .fBlockErase s.regs.startPage.toNat]) (r := .erase) hs hbusy hready hmax
      (by simp [respLen]) hdev (.inr (.inr rfl)) fun c hans => by
        obtain ⟨v, hrun, hprog⟩ := controllerRun_beginErase hs hpage hans
        exact ⟨v, _, hrun, hprog⟩
    exact ⟨t, hrun, hend, hsent, hcount, htxn, hdone, hmem⟩

end Sys2Proof.Machine
end

section
/-! SUPPORT. The START steps that check a range (R190, R195, R200, R230): a range that does not fit, by the inequality
that fails, and ERASE_BLOCK on both sides of its own check. -/

namespace Sys2Proof.Machine

variable {s : State}

/-- A range is refused for the device's pages, for the buffer's length, or for the address space (R230). -/
theorem rangeOk_eq_false_iff (s : State) (start count : Nat) : rangeOk s start count = false ↔
    s.params.profile.pagesTotal < start + count ∨
    s.regs.bufLen.toNat < count * s.params.profile.pageSizeBytes ∨
    s.params.bufSize < s.regs.bufAddr.toNat + count * s.params.profile.pageSizeBytes := by
  rw [← Bool.not_eq_true, rangeOk_iff]
  simp only [not_and_or, not_le]

theorem startPages_of_not_rangeOk {count : Nat} (first : Phase)
    (h : rangeOk s s.regs.startPage.toNat count = false) : startPages count first s = raiseError .invalidRange none s :=
  if_neg (ne_true_of_eq_false h)

theorem exec_eraseBlock_of_lt (h : s.regs.startPage.toNat < s.params.profile.pagesTotal) :
    exec .eraseBlock s = .next (setPhase .wrEnable (setCur s.regs.startPage.toNat s)) :=
  congrArg Host.Outcome.next (if_pos h)

theorem exec_eraseBlock_of_le (h : s.params.profile.pagesTotal ≤ s.regs.startPage.toNat) :
    exec .eraseBlock s = .next (raiseError .invalidRange none s) :=
  congrArg Host.Outcome.next (if_neg h.not_gt)

/-- Settles O11: READ_PAGE and PROGRAM_PAGE start on a range of one page, ERASE_BLOCK checks the page alone. -/
theorem startOfPageCommands : Obligations.StartOfPageCommands := by
  intro s
  refine ⟨fun hpages hlen haddr => ?_, fun hout => ?_, exec_eraseBlock_of_lt, exec_eraseBlock_of_le⟩
  · have hrange : rangeOk s s.regs.startPage.toNat 1 = true :=
      (rangeOk_iff s _ 1).mpr (by rw [Nat.one_mul]; exact ⟨hpages, hlen, haddr⟩)
    exact ⟨congrArg Host.Outcome.next (startPages_of_rangeOk hrange Nat.one_pos),
      congrArg Host.Outcome.next (startPages_of_rangeOk hrange Nat.one_pos)⟩
  · have hrange : rangeOk s s.regs.startPage.toNat 1 = false :=
      (rangeOk_eq_false_iff s _ 1).mpr (by rw [Nat.one_mul]; exact hout)
    exact ⟨congrArg Host.Outcome.next (startPages_of_not_rangeOk .rdSelect hrange),
      congrArg Host.Outcome.next (startPages_of_not_rangeOk .wrEnable hrange)⟩

end Sys2Proof.Machine
end

section
/-! SUPPORT. The Sequential Accessor of 42_sequential_access.md (R230 to R236): a range command's START step, the end of
a page, and two ways that a command stops with its pages not done: a range check that fails, and a ChannelError of a page
select. -/

namespace Sys2Proof.Machine

variable {s t : State}

/-! ### The START step and the end of a page (R230, R232, R234, R236) -/

theorem startPages_empty (first : Phase) (h : rangeOk s s.regs.startPage.toNat 0 = true) :
    startPages 0 first s = finishOk (setCur s.regs.startPage.toNat s) := by
  rw [startPages, if_pos h, if_pos rfl]

/-- Settles O12: the range check on PAGE_COUNT pages, and whether there is a page at all. -/
theorem startOfRangeCommands : Obligations.StartOfRangeCommands := by
  intro s
  refine ⟨fun hfits => ?_, fun hout => ?_⟩
  · have hrange : rangeOk s s.regs.startPage.toNat s.regs.pageCount.toNat = true := (rangeOk_iff s _ _).mpr hfits
    refine ⟨fun hsome => ?_, fun hzero => ?_⟩
    · have hpos : 0 < s.regs.pageCount.toNat := Nat.pos_of_ne_zero fun h => hsome (BitVec.eq_of_toNat_eq h)
      exact ⟨congrArg Host.Outcome.next (startPages_of_rangeOk hrange hpos),
        congrArg Host.Outcome.next (startPages_of_rangeOk hrange hpos)⟩
    · have hcount : s.regs.pageCount.toNat = 0 := congrArg BitVec.toNat hzero
      have hempty (first : Phase) :
          startPages s.regs.pageCount.toNat first s = finishOk (setCur s.regs.startPage.toNat s) := by
        rw [hcount] at hrange ⊢
        exact startPages_empty first hrange
      exact ⟨_, congrArg Host.Outcome.next (hempty .rdSelect), congrArg Host.Outcome.next (hempty .wrEnable),
        endedOk_finishOk _, (hostSideKept_setCur _ s).trans (hostSideKept_finishOk _), rfl, rfl, rfl⟩
  · have hrange : rangeOk s s.regs.startPage.toNat s.regs.pageCount.toNat = false :=
      (rangeOk_eq_false_iff s _ _).mpr hout
    exact ⟨congrArg Host.Outcome.next (startPages_of_not_rangeOk .rdSelect hrange),
      congrArg Host.Outcome.next (startPages_of_not_rangeOk .wrEnable hrange)⟩

/-- Before the last page of a range, the command's code names the phase of the next page (R234). -/
theorem pageComplete_of_more (hread : cmdCode s.seq.word ≠ 0x10) (hprogram : cmdCode s.seq.word ≠ 0x11)
    (hmore : s.regs.pagesDone + 1 ≠ s.regs.pageCount) : pageComplete s =
      if cmdCode s.seq.word = 0x20 then setPhase .rdSelect (countPage s) else setPhase .wrEnable (countPage s) := by
  rw [pageComplete, if_neg (not_or.mpr ⟨hread, hprogram⟩), if_neg hmore]

/-- Settles O26: the branches of `page_complete()` in R234's order. -/
theorem pageCompleteStartsTheNextOrEnds : Obligations.PageCompleteStartsTheNextOrEnds := by
  rintro s _ rfl
  exact ⟨fun hsingle => if_pos hsingle, fun hread hprogram => ⟨pageComplete_last,
    fun hmore hrange => (pageComplete_of_more hread hprogram hmore).trans (if_pos hrange),
    fun hmore hother => (pageComplete_of_more hread hprogram hmore).trans (if_neg hother)⟩⟩

/-! ### A command that has ended (R310) -/

theorem endedWith_raiseError {e : ErrCode} {page : Option Nat} (s : State) (hpage : ∀ p ∈ page, p < 2 ^ 32) :
    EndedWith e page (raiseError e page s) := by
  refine ⟨rfl, rfl, rfl, rfl, rfl, rfl, ?_⟩
  cases page with
  | none => rfl
  | some p => exact Nat.mod_eq_of_lt (hpage p rfl)

/-- A controller in IDLE changes nothing until the host moves (R47). -/
theorem run_of_idle (hwf : s.params.wf = true) (hin : s.inputs = []) (hp : s.seq.phase = .idle) (k : Nat) :
    Sys2Proof.core.run k s = .next s := by
  have hstep : step s = .next s := by rw [step_of_no_inputs hwf hin, controllerStep, hp]
  induction k with
  | zero => rfl
  | succ k ih => exact (run_succ hstep).trans ih

/-- Settles O55: the START step of each command raises INVALID_RANGE, and the idle controller then waits. -/
theorem rangeFailureDoesNothing : Obligations.RangeFailureDoesNothing := by
  intro s w hs hfail
  have hstart {i : Instr} (hdec : decodeCommand w = .ok i) : controllerStep s = exec i s :=
    controllerStep_start_ok hs.phase (hs.word ▸ hdec)
  have hraise : controllerStep s = .next (raiseError .invalidRange none s) := by
    rcases hfail with ⟨rfl | rfl, hrange⟩ | ⟨rfl | rfl, hrange⟩ | ⟨rfl, hpage⟩
    · exact (hstart (i := .readPage) rfl).trans (congrArg _ (startPages_of_not_rangeOk .rdSelect hrange))
    · exact (hstart (i := .programPage) rfl).trans (congrArg _ (startPages_of_not_rangeOk .wrEnable hrange))
    · exact (hstart (i := .readRange) rfl).trans (congrArg _ (startPages_of_not_rangeOk .rdSelect hrange))
    · exact (hstart (i := .programRange) rfl).trans (congrArg _ (startPages_of_not_rangeOk .wrEnable hrange))
    · exact (hstart (i := .eraseBlock) rfl).trans (exec_eraseBlock_of_le hpage)
  exact ⟨_, (step_of_no_inputs hs.params_wf hs.inputs).trans hraise, endedWith_raiseError s nofun, hs.txnCount, rfl, rfl,
    run_of_idle hs.params_wf hs.inputs rfl⟩

/-! ### READ_RANGE stopped by a page select (R233, R235, R302) -/

theorem Progress.raiseError {p n : Nat} {c : Channel} {x : Memory} (e : ErrCode) (page : Option Nat)
    (h : Progress s p n c x t) : Progress s p n c x (raiseError e page t) :=
  { h with host := h.host.trans (.of_side (hostSideKept_raiseError e page t)) }

/-- A select that meets a ChannelError ends the command at its page (R191, R302). -/
theorem controllerStep_rdSelect_error (hp : s.seq.phase = .rdSelect) (hrow : rowFits s.params.profile s.seq.cur = true)
    (hans : frameAnswer (.fPageReadToCache s.seq.cur) s = none) :
    controllerStep s
      = .next (raiseError .channelError (some s.seq.cur) (afterFrame (.fPageReadToCache s.seq.cur) s)) := by
  rw [controllerStep_frame (by rw [phaseFrame, hp]), exec_fPageReadToCache hp hrow, sendFrame_error _ _ hans]

/-- The page that the command is at fits FAIL_PAGE (R21, R35). -/
theorem AtPage.cur_lt_word {ph : Phase} {w : Word} {b : Byte} (h : AtPage ph w b s) : s.seq.cur < 2 ^ 32 :=
  (page_fits h.params_wf h.onPage.cur_lt).2 ▸ (BitVec.ofNat 32 s.seq.cur).isLt

/-- READ_RANGE from one of its pages: after the pages that it reads, the next page's select meets a ChannelError. -/
theorem controllerRun_readToSelectError {b : Byte} {pages : List (List Byte)} {rest : List Answer} {c : Channel}
    (h : AtPage .rdSelect 0x20 b s) (hmore : s.regs.pagesDone.toNat + pages.length < s.regs.pageCount.toNat)
    (hlen : ∀ r ∈ pages, r.length = s.params.profile.cu)
    (hans : Answers s.params.profile s.chan (readScripts s.params.profile b s.seq.cur pages) c)
    (hdev : c.dev = .oracle (.channelError :: rest)) :
    ∃ t, ControllerRun (3 * pages.length + 1) s t ∧ EndedWith .channelError (some (s.seq.cur + pages.length)) t ∧
      Progress s pages.length (3 * pages.length + 1)
        (channelAfter s.params.profile c (.fPageReadToCache (s.seq.cur + pages.length)))
        (memWrite s.mem (slotAddr s) (pageBytes s.params.profile pages).flatten) t := by
  obtain ⟨u, hrun, hat, hprog⟩ := controllerRun_readPages h hmore hlen hans
  have hselect := controllerStep_rdSelect_error (s := atMove u) hat.phase hat.rowFits
    (frameAnswer_of_prepared (by rw [atMove_chan, hprog.chan]; exact hdev)).1
  have hend := (hprog.trans (progress_afterFrame (.fPageReadToCache u.seq.cur) (atMove u)).of_atMove).raiseError
    .channelError (some u.seq.cur)
  rw [atMove_params, atMove_chan, atMove_mem, hprog.host.params, hprog.chan, hprog.mem, hprog.cur] at hend
  rw [atMove_seq, hprog.cur] at hselect
  refine ⟨_, hrun.trans (.one hselect), endedWith_raiseError _ ?_, hend⟩
  rw [← hprog.cur]
  exact fun p hp => Option.some.inj hp ▸ hat.cur_lt_word

/-- Each page is read with three frames. -/
theorem length_readScripts (P : Profile) (b : Byte) (pages : List (List Byte)) (p : Nat) :
    (readScripts P b p pages).length = 3 * pages.length := by
  induction pages generalizing p with
  | nil => rfl
  | cons r pages ih => rw [readScripts, List.length_append, ih, List.length_cons, Nat.mul_succ, Nat.add_comm]; rfl

/-- Pages written side by side from `a` on: each stands in its own slot, and every byte outside the slots is as before
(R73, R233). -/
theorem slots_of_memWrite_pageBytes {P : Profile} {pages : List (List Byte)} {a : Nat} (hmem : memWf s.mem = true)
    (hlen : ∀ r ∈ pages, r.length = P.cu) (ht : t.mem = memWrite s.mem a (pageBytes P pages).flatten) :
    (∀ (i : Nat) (r : List Byte), pages[i]? = some r →
      memRead t.mem (a + i * P.pageSizeBytes) P.pageSizeBytes = r.take P.pageSizeBytes) ∧
    MemKeptOutside a (pages.length * P.pageSizeBytes) s t := by
  have hblocks := length_pageBytes hlen
  refine ⟨fun i r hr => ?_, fun x hx => ?_⟩ <;> rw [ht]
  · exact memRead_memWrite_blocks hblocks hmem (by rw [pageBytes, List.getElem?_map, hr]; rfl)
  · refine memByte_memWrite_outside _ _ ?_
    rwa [length_flatten_blocks hblocks, pageBytes, List.length_map]

/-- Settles O57: START, the pages before the failing select, that select, and then the idle controller. -/
theorem readRangeStopsAtAChannelErrorOfASelect : Obligations.ReadRangeStopsAtAChannelErrorOfASelect := by
  intro s pages b rest hs hmore hrange hready hmax hlen hdev
  have hpos : 0 < s.regs.pageCount.toNat := Nat.zero_lt_of_lt hmore
  have hstart := controllerStep_start_pages hs.phase (i := .readRange) (ph := .rdSelect) (by rw [hs.word]; rfl) rfl
    hrange hpos
  have hat := atPage_atFirstPage (ph := .rdSelect) hs (.inl rfl) hrange hpos hready hmax
  rw [← readScripts_responses s.params.profile b _ s.regs.startPage.toNat, List.append_assoc] at hdev
  obtain ⟨c, hans⟩ := answers_of_prepared hdev (readScripts_lengths hlen)
  have hdone : s.regs.pagesDone.toNat = 0 := congrArg BitVec.toNat hs.pagesDone
  obtain ⟨t, hrun, hend, hprog⟩ := controllerRun_readToSelectError hat
    (by rw [atFirstPage_regs, hdone, Nat.zero_add]; exact hmore) hlen hans (answers_rest hdev hans)
  have hrun : ControllerRun (3 * pages.length + 2) s t := ⟨_, hstart, hrun⟩
  have hhost := (hostKept_atFirstPage .rdSelect s).trans hprog.host
  rw [slotAddr_atFirstPage] at hprog
  obtain ⟨hslots, hout⟩ := slots_of_memWrite_pageBytes hs.mem_wf hlen hprog.mem
  refine ⟨t, run_of_controllerRun hs.params_wf (.inl hs.inputs) hrun, hend, ?_, ?_, hslots, hout,
    run_of_idle (by rw [hhost.params]; exact hs.params_wf) (by rw [hrun.inputs, hs.inputs, List.drop_nil]) hend.phase⟩
  · rw [hprog.pagesDone, atFirstPage_regs, hs.pagesDone]
    bv_omega
  · rw [hprog.chan, channelAfter, answers_sent hans]
    simp only [framesSent, List.length_append, List.length_map, length_readScripts, List.length_singleton]

end Sys2Proof.Machine
end

section
/-! SUPPORT. R301's table: which errors a command's end can report, and with which of them a page (R263, R300, R303). -/

namespace Sys2Proof.Machine

variable {s t : State} {w : Word}

/-! ### The table -/

/-- The commands of one frame (R262 to R268, R170). -/
def oneFrameCommands : List Word := [0x02, 0x03, 0x04, 0x05, 0x06]

/-- The commands of a poll without a page (R168, R260). -/
def pollCommands : List Word := [0x01, 0x07]

/-- The commands over pages (R190 to R200, R232, R236). -/
def pageCommands : List Word := [0x10, 0x11, 0x12, 0x20, 0x21]

/-- R301's table with R300's page column: the command of word `w` can end with this error, and this PAGE_VALID. Past its
START a command ends with neither of the two errors that a START step raises. -/
inductive MayEndWith (w : Word) : ErrCode → Bool → Prop where
  | illegalWord (hw : w ∉ commandWords) : MayEndWith w .illegalCommand false
  | badRange (hw : w ∈ pageCommands) : MayEndWith w .invalidRange false
  | oneFrame (hw : w ∈ oneFrameCommands) : MayEndWith w .channelError false
  | poll {e : ErrCode} (hw : w ∈ pollCommands) (hrange : e ≠ .invalidRange) (hillegal : e ≠ .illegalCommand) :
    MayEndWith w e false
  | page {e : ErrCode} (hw : w ∈ pageCommands) (hrange : e ≠ .invalidRange) (hillegal : e ≠ .illegalCommand) :
    MayEndWith w e true

variable {e : ErrCode}

theorem oneFrameCommands_separate : ∀ w ∈ oneFrameCommands,
    w ∈ commandWords ∧ w ∉ pollCommands ∧ w ∉ pageCommands := by
  simp [oneFrameCommands, pollCommands, pageCommands, commandWords]

theorem pollCommands_separate : ∀ w ∈ pollCommands,
    w ∈ commandWords ∧ w ∉ oneFrameCommands ∧ w ∉ pageCommands := by
  simp [oneFrameCommands, pollCommands, pageCommands, commandWords]

theorem pageCommands_separate : ∀ w ∈ pageCommands,
    w ∈ commandWords ∧ w ∉ oneFrameCommands ∧ w ∉ pollCommands := by
  simp [oneFrameCommands, pollCommands, pageCommands, commandWords]

theorem MayEndWith.of_oneFrame {b : Bool} (h : MayEndWith w e b) (hw : w ∈ oneFrameCommands) :
    e = .channelError ∧ b = false := by
  obtain ⟨hlegal, hpoll, hpage⟩ := oneFrameCommands_separate w hw
  cases h with
  | illegalWord h => exact absurd hlegal h
  | badRange h => exact absurd h hpage
  | oneFrame => exact ⟨rfl, rfl⟩
  | poll h => exact absurd h hpoll
  | page h => exact absurd h hpage

theorem MayEndWith.of_poll {b : Bool} (h : MayEndWith w e b) (hw : w ∈ pollCommands) :
    e ≠ .invalidRange ∧ e ≠ .illegalCommand ∧ b = false := by
  obtain ⟨hlegal, hone, hpage⟩ := pollCommands_separate w hw
  cases h with
  | illegalWord h => exact absurd hlegal h
  | badRange h => exact absurd h hpage
  | oneFrame h => exact absurd h hone
  | poll _ hrange hillegal => exact ⟨hrange, hillegal, rfl⟩
  | page h => exact absurd h hpage

theorem MayEndWith.of_page {b : Bool} (h : MayEndWith w e b) (hw : w ∈ pageCommands) :
    e ≠ .illegalCommand ∧ (b = false ↔ e = .invalidRange) := by
  obtain ⟨hlegal, hone, hpoll⟩ := pageCommands_separate w hw
  cases h with
  | illegalWord h => exact absurd hlegal h
  | badRange => exact ⟨nofun, iff_of_true rfl rfl⟩
  | oneFrame h => exact absurd h hone
  | poll h => exact absurd h hpoll
  | page _ hrange hillegal => exact ⟨hillegal, iff_of_false nofun hrange⟩

theorem MayEndWith.of_illegalWord {b : Bool} (h : MayEndWith w e b) (hw : w ∉ commandWords) :
    e = .illegalCommand ∧ b = false := by
  cases h with
  | illegalWord => exact ⟨rfl, rfl⟩
  | badRange h => exact absurd (pageCommands_separate w h).1 hw
  | oneFrame h => exact absurd (oneFrameCommands_separate w h).1 hw
  | poll h => exact absurd (pollCommands_separate w h).1 hw
  | page h => exact absurd (pageCommands_separate w h).1 hw

/-! ### The word of a phase (R47, R165) -/

theorem readsPages.mem_pageCommands (h : readsPages s) : s.seq.word ∈ pageCommands := by
  rcases h with h | h <;> rw [h] <;> decide

theorem programsPages.mem_pageCommands (h : programsPages s) : s.seq.word ∈ pageCommands := by
  rcases h with h | h <;> rw [h] <;> decide

theorem Erasing.mem_pageCommands (h : Erasing s) : s.seq.word ∈ pageCommands := by
  rw [h.word_eq]; decide

/-- The phases between a START step and a poll's end that only a page command comes to. -/
theorem word_mem_pageCommands (h : PhaseOk s)
    (hp : s.seq.phase ∈ [Phase.rdSelect, .rdCache, .wrEnable, .wrLoad, .wrExec, .erErase]) :
    s.seq.word ∈ pageCommands := by
  simp only [List.mem_cons, List.not_mem_nil, or_false] at hp
  unfold PhaseOk at h
  rcases hp with hp | hp | hp | hp | hp | hp <;> rw [hp] at h
  · exact h.1.mem_pageCommands
  · exact h.1.mem_pageCommands
  · exact h.elim (·.1.mem_pageCommands) (·.mem_pageCommands)
  · exact h.1.mem_pageCommands
  · exact h.1.mem_pageCommands
  · exact h.mem_pageCommands

theorem word_mem_oneFrameCommands (h : PhaseOk s) (hp : s.seq.phase = .single) : s.seq.word ∈ oneFrameCommands := by
  simpa [PhaseOk, hp, oneFrameCommands] using h

/-- A poll's error carries a page exactly in the page commands (R163). -/
theorem mayEndWith_pollPage (h : RetOk s) (hrange : e ≠ .invalidRange) (hillegal : e ≠ .illegalCommand) :
    MayEndWith s.seq.word e (pollPage s).isSome := by
  unfold RetOk at h
  unfold pollPage
  generalize s.seq.ret = ret at h
  cases ret with
  | poll => exact .poll (by rw [h]; decide) hrange hillegal
  | reset => exact .poll (by rw [h]; decide) hrange hillegal
  | read => exact .page h.1.mem_pageCommands hrange hillegal
  | prog => exact .page h.1.mem_pageCommands hrange hillegal
  | erase => exact .page h.mem_pageCommands hrange hillegal

/-! ### What the shared operations report -/

/-- If the command of word `w` has ended in `t` with an error, it is one of the table's. -/
def ReportsWithin (w : Word) (t : State) : Prop :=
  t.seq.phase = .idle → t.regs.errCode ≠ .none → MayEndWith w t.regs.errCode t.regs.pageValid

theorem reportsWithin_finishOk (w : Word) (s : State) : ReportsWithin w (finishOk s) := fun _ h => absurd rfl h

theorem reportsWithin_of_phase (h : t.seq.phase ≠ .idle) : ReportsWithin w t := fun hidle => absurd hidle h

theorem reportsWithin_raiseError {page : Option Nat} (s : State) (h : MayEndWith w e page.isSome) :
    ReportsWithin w (raiseError e page s) := fun _ _ => h

theorem reportsWithin_sendFrame {i : Instr} {page : Option Nat} {k : List Byte → State → State}
    (herr : MayEndWith w .channelError page.isSome) (hk : ∀ r, ReportsWithin w (k r (afterFrame i s))) :
    ReportsWithin w (sendFrame i page k s) := by
  rcases sendFrame_cases i page k s with ⟨-, h⟩ | ⟨r, -, -, h⟩ <;> rw [h]
  · exact reportsWithin_raiseError _ herr
  · exact hk r

theorem reportsWithin_startPages {first : Phase} (count : Nat) (s : State) (hw : w ∈ pageCommands)
    (hfirst : first ≠ .idle) : ReportsWithin w (startPages count first s) := by
  rcases startPages_cases count first s with ⟨-, h⟩ | ⟨-, -, h⟩ | ⟨-, -, h⟩ <;> rw [h]
  · exact reportsWithin_raiseError s (.badRange hw)
  · exact reportsWithin_finishOk w _
  · exact reportsWithin_of_phase hfirst

theorem reportsWithin_pageComplete (w : Word) (s : State) : ReportsWithin w (pageComplete s) := by
  rcases pageComplete_ends_or_goes_on s with h | ⟨ph, hph, h⟩ <;> rw [h]
  · exact reportsWithin_finishOk w _
  · exact reportsWithin_of_phase hph

theorem reportsWithin_continuePoll (w : Word) (s : State) : ReportsWithin w (continuePoll s) := by
  unfold continuePoll
  split
  · exact reportsWithin_finishOk w s
  · exact reportsWithin_finishOk w s
  · exact reportsWithin_of_phase nofun
  · exact reportsWithin_pageComplete w s
  · exact reportsWithin_finishOk w s

theorem reportsWithin_pollReceive (b : Byte) (h : RetOk s) : ReportsWithin s.seq.word (pollReceive b s) := by
  rcases pollReceive_cases b s with ⟨-, -, hs⟩ | ⟨-, -, hs⟩ | ⟨e, he, hs⟩ | ⟨v, -, hs⟩ <;> rw [hs]
  · exact reportsWithin_of_phase nofun
  · exact reportsWithin_raiseError _ (mayEndWith_pollPage h nofun nofun)
  · obtain ⟨hrange, hillegal⟩ : e ≠ .invalidRange ∧ e ≠ .illegalCommand := by
      rcases decodeOutcome_fail he with rfl | rfl | rfl | ⟨rfl, -⟩ <;> decide
    exact reportsWithin_raiseError _ (mayEndWith_pollPage h hrange hillegal)
  · exact reportsWithin_continuePoll _ _

theorem reportsWithin_pollAttempt (i : Instr) (h : RetOk s) : ReportsWithin s.seq.word (pollAttempt i s) := by
  unfold pollAttempt
  split
  · exact reportsWithin_raiseError s (mayEndWith_pollPage h nofun nofun)
  · exact reportsWithin_sendFrame (mayEndWith_pollPage h nofun nofun) fun r =>
      reportsWithin_pollReceive (s := afterFrame i (countAttempt s)) (r.headD 0)
        (retOk_of_kept h (by constructor <;> rfl) rfl)

/-! ### What the instructions report -/

/-- The START step of a page command raises INVALID_RANGE alone, that of another command nothing (R230, R231). -/
theorem reportsWithin_exec_command {i : Instr} (hdec : decodeCommand s.seq.word = .ok i) (h : exec i s = .next t) :
    ReportsWithin s.seq.word t := by
  obtain ⟨c, hc, hword⟩ := decodeCommand_ok hdec
  rw [hword]
  cases i with
  | reset => cases h; exact reportsWithin_of_phase nofun
  | identify => cases h; exact reportsWithin_of_phase nofun
  | getStatus => cases h; exact reportsWithin_of_phase nofun
  | setStatus => cases h; exact reportsWithin_of_phase nofun
  | writeEnable => cases h; exact reportsWithin_of_phase nofun
  | writeDisable => cases h; exact reportsWithin_of_phase nofun
  | poll => cases h; exact reportsWithin_of_phase nofun
  | readPage => cases hc; cases h; exact reportsWithin_startPages _ s (by decide) nofun
  | programPage => cases hc; cases h; exact reportsWithin_startPages _ s (by decide) nofun
  | readRange => cases hc; cases h; exact reportsWithin_startPages _ s (by decide) nofun
  | programRange => cases hc; cases h; exact reportsWithin_startPages _ s (by decide) nofun
  | eraseBlock =>
    cases hc
    rcases execEraseBlock_cases s with ⟨-, he⟩ | he <;> cases he.symm.trans h
    · exact reportsWithin_of_phase nofun
    · exact reportsWithin_raiseError s (.badRange (by decide))
  | _ => cases hc

/-- A page phase's frame reports CHANNEL_ERROR with the page (R302, R303). -/
theorem reportsWithin_pageFrame {i : Instr} {p : Nat} {k : List Byte → State → State} (hw : w ∈ pageCommands)
    (hk : ∀ r, ReportsWithin w (k r (afterFrame i s))) : ReportsWithin w (sendFrame i (some p) k s) :=
  reportsWithin_sendFrame (.page hw nofun nofun) hk

/-- SINGLE's frame reports CHANNEL_ERROR without a page, or ends the command well (R269). -/
theorem reportsWithin_singleFrame {i : Instr} {f : List Byte → State → State} (hok : PhaseOk s)
    (hp : s.seq.phase = .single) :
    ReportsWithin s.seq.word (sendFrame i none (fun r u => finishOk (f r u)) s) :=
  reportsWithin_sendFrame (.oneFrame (word_mem_oneFrameCommands hok hp)) fun _ => reportsWithin_finishOk _ _

theorem reportsWithin_exec_frame {i : Instr} (hok : PhaseOk s) (hf : commandCode i = none) (h : exec i s = .next t) :
    ReportsWithin s.seq.word t := by
  have hpage := word_mem_pageCommands hok
  cases i with
  | fPageReadToCache p =>
    obtain ⟨hp, -, rfl⟩ := execFPageReadToCache_next h
    exact reportsWithin_pageFrame (hpage (by simp [hp])) fun _ => reportsWithin_of_phase nofun
  | fReadFromCache =>
    obtain ⟨hp, -, rfl⟩ := execFReadFromCache_next h
    exact reportsWithin_pageFrame (hpage (by simp [hp])) fun _ => reportsWithin_pageComplete _ _
  | fProgramLoad d =>
    obtain ⟨hp, -, -, rfl⟩ := execFProgramLoad_next h
    exact reportsWithin_pageFrame (hpage (by simp [hp])) fun _ => reportsWithin_of_phase nofun
  | fProgramExecute p =>
    obtain ⟨hp, -, rfl⟩ := execFProgramExecute_next h
    exact reportsWithin_pageFrame (hpage (by simp [hp])) fun _ => reportsWithin_of_phase nofun
  | fBlockErase p =>
    obtain ⟨hp, -, rfl⟩ := execFBlockErase_next h
    exact reportsWithin_pageFrame (hpage (by simp [hp])) fun _ => reportsWithin_of_phase nofun
  | fGetStatus a =>
    obtain ⟨hp, rfl⟩ | ⟨hp, rfl⟩ := execFGetStatus_next h
    · simp only [PhaseOk, hp] at hok
      exact reportsWithin_pollAttempt _ hok.1
    · exact reportsWithin_singleFrame hok hp
  | fSetStatus a v =>
    obtain ⟨hp, rfl⟩ := execFSetStatus_next h
    exact reportsWithin_singleFrame hok hp
  | fReset =>
    obtain ⟨hp, rfl⟩ := execFReset_next h
    have hword : s.seq.word = 0x01 := by simpa [PhaseOk, hp] using hok
    exact reportsWithin_sendFrame (.poll (by rw [hword]; decide) nofun nofun) fun _ => reportsWithin_of_phase nofun
  | fWriteEnable =>
    obtain ⟨hp, rfl⟩ | ⟨hp, rfl⟩ := execFWriteEnable_next h
    · refine reportsWithin_pageFrame (hpage (by simp [hp])) fun _ => reportsWithin_of_phase ?_
      show (if cmdCode s.seq.word = 0x12 then Phase.erErase else .wrLoad) ≠ .idle
      split <;> exact nofun
    · exact reportsWithin_singleFrame hok hp
  | fWriteDisable =>
    obtain ⟨hp, rfl⟩ := execFWriteDisable_next h
    exact reportsWithin_singleFrame hok hp
  | fReadId =>
    obtain ⟨hp, rfl⟩ := execFReadId_next h
    exact reportsWithin_singleFrame hok hp
  | _ => cases hf

theorem decodeCommand_isOk : ∀ w ∈ commandWords, (decodeCommand w).isOk = true := by
  simp [commandWords, decodeCommand, cmdCode, Except.isOk, Except.toBool]

/-- In START a word of the table runs its START step, and only another word is refused (R111, R112). -/
theorem reportsWithin_start (hp : s.seq.phase = .start) (h : controllerStep s = .next t) :
    ReportsWithin s.seq.word t := by
  by_cases hw : s.seq.word ∈ commandWords
  · cases hdec : decodeCommand s.seq.word with
    | ok i => exact reportsWithin_exec_command hdec ((controllerStep_start_ok hp hdec).symm.trans h)
    | error e => exact absurd (decodeCommand_isOk _ hw) (by rw [hdec]; exact nofun)
  · cases (controllerStep_start_illegal hp hw).symm.trans h
    exact reportsWithin_raiseError s (.illegalWord hw)

/-- R301: from the invariant a controller step of a running command reports an error of the table or none. -/
theorem reportsWithin_controllerStep (hi : Inv s) (hp : s.seq.phase ≠ .idle) (h : controllerStep s = .next t) :
    ReportsWithin s.seq.word t := by
  rcases controllerStep_next h with ⟨hidle, -⟩ | ⟨hs, -⟩ | ⟨hs, -⟩ | ⟨-, rfl⟩ | ⟨i, hf, he⟩
  · exact absurd hidle hp
  · exact reportsWithin_start hs h
  · exact reportsWithin_start hs h
  · exact reportsWithin_of_phase nofun
  · exact reportsWithin_exec_frame hi.phase_ok (phaseFrame_commandCode hf) he

/-- Settles O49: the table read by the command word; that code 7 is never written is the invariant's (R263). -/
theorem errorsACommandCanEndWith : Obligations.ErrorsACommandCanEndWith := by
  intro s t hi h hp hidle herr
  have hend := reportsWithin_controllerStep hi hp h hidle herr
  exact ⟨hend.of_oneFrame, hend.of_poll, hend.of_page, hend.of_illegalWord, (inv_controllerStep hi h).no_mismatch⟩

end Sys2Proof.Machine
end

section
/-! SUPPORT. The end of a command as the host sees it in 60_exceptions.md: what `raise E(page)` and `finish_ok()` write
and keep (R310, R311), and the interrupt, which is a level on CTRL.IRQ_EN and STATUS.DONE (R315). -/

namespace Sys2Proof.Machine

variable {s : State}

/-! ### What ending a command keeps (R310, R311) -/

theorem decodeKept_raiseError (e : ErrCode) (page : Option Nat) (s : State) : DecodeKept s (raiseError e page s) := by
  constructor <;> rfl

theorem decodeKept_finishOk (s : State) : DecodeKept s (finishOk s) := by constructor <;> rfl

theorem idsKept_raiseError (e : ErrCode) (page : Option Nat) (s : State) : IdsKept s (raiseError e page s) := by
  constructor <;> rfl

theorem idsKept_finishOk (s : State) : IdsKept s (finishOk s) := by constructor <;> rfl

/-- RESULT holds ERR_CODE and PAGE_VALID, and nothing besides them (R34). -/
theorem toNat_resultWord (s : State) :
    (resultWord s).toNat = errCodeNumber s.regs.errCode + 256 * s.regs.pageValid.toNat := by
  have hcode := errCodeNumber_le s.regs.errCode
  have hvalid := s.regs.pageValid.toNat_le
  rw [resultWord, BitVec.toNat_ofNat, Nat.mod_eq_of_lt (by omega)]

/-- Settles O25: both ends write the result's registers and the phase alone, and RESULT packs two of them. -/
theorem endOfACommand : Obligations.EndOfACommand :=
  ⟨fun e page s hpage => ⟨endedWith_raiseError s hpage, hostSideKept_raiseError e page s, decodeKept_raiseError e page s,
      idsKept_raiseError e page s, rfl, rfl, rfl, rfl, rfl, rfl, toNat_resultWord (raiseError e page s)⟩,
    fun s => ⟨endedOk_finishOk s, hostSideKept_finishOk s, decodeKept_finishOk s, idsKept_finishOk s,
      rfl, rfl, rfl, rfl, rfl, rfl, BitVec.eq_of_toNat_eq (toNat_resultWord (finishOk s))⟩⟩

/-! ### The interrupt (R315) -/

theorem irq_of_done (h : s.regs.done = true) : irq s = s.regs.irqEn := by rw [irq, h, Bool.and_true]

theorem irq_of_not_done (h : s.regs.done = false) : irq s = false := by rw [irq, h, Bool.and_false]

theorem irq_of_disabled (h : s.regs.irqEn = false) : irq s = false := by rw [irq, h, Bool.false_and]

/-- Writing 1 to STATUS.DONE clears it (R25). -/
theorem done_writeStatus {v : Word} (hv : v.getLsbD 1 = true) : (writeStatus v s).regs.done = false := by
  rw [writeStatus_regs, hv, Bool.not_true, Bool.and_false]

/-- Settles O35: both ends of a command set DONE and keep IRQ_EN, and each of the three writes clears one of the two. -/
theorem interruptIsALevel : Obligations.InterruptIsALevel := by
  intro s
  obtain ⟨-, -, -, -, -, -, hmirror, -⟩ := statusWord_fields s
  refine ⟨rfl, hmirror, fun e page => irq_of_done rfl, irq_of_done rfl, fun v hv => ?_, fun v hv => ?_, fun w hidle => ?_⟩
  · exact irq_of_not_done (done_writeStatus hv)
  · exact irq_of_disabled hv
  · have hwrite : writeOffset 0x08 w s = acceptCommand w s := writeCmd_of_idle w hidle
    rw [hwrite]
    exact irq_of_not_done rfl

end Sys2Proof.Machine
end

section
/-! SUPPORT. R350 in 70_reset_and_hazards.md: which host accesses race with the busy command, which values then compete
for a byte, and what the two uses of a slot (WR_LOAD's read, RD_CACHE's store) make of them. -/

namespace Sys2Proof.Machine

variable {s : State} {a : Nat}

/-! ### Which accesses race (R350) -/

theorem inSlots_iff (s : State) (lo hi a : Nat) : inSlots s lo hi a = true ↔
    s.regs.bufAddr.toNat + lo * s.params.profile.pageSizeBytes ≤ a ∧
      a < s.regs.bufAddr.toNat + hi * s.params.profile.pageSizeBytes := by
  simp [inSlots]

theorem inSlots_eq_false {s : State} {lo hi a : Nat}
    (h : a < s.regs.bufAddr.toNat + lo * s.params.profile.pageSizeBytes ∨
      s.regs.bufAddr.toNat + hi * s.params.profile.pageSizeBytes ≤ a) : inSlots s lo hi a = false := by
  rw [← Bool.not_eq_true, inSlots_iff]
  omega

theorem writeRace_of_idle (b : Byte) (hidle : s.regs.busy = false) : writeRace s a b = none := by
  simp [writeRace, hidle]

theorem writeRace_of_reads (b : Byte) (hbusy : s.regs.busy = true) (h : readsPages s) :
    writeRace s a b = if inSlots s s.regs.pagesDone.toNat (pagesWanted s) a then some b else none := by
  simp [writeRace, hbusy, slotUse_reads h]

theorem readRaces_of_reads (hbusy : s.regs.busy = true) (h : readsPages s) :
    readRaces s a = inSlots s s.regs.pagesDone.toNat (pagesWanted s) a := by
  simp [readRaces, hbusy, slotUse_reads h]

theorem writeRace_of_programs (b : Byte) (hbusy : s.regs.busy = true) (h : programsPages s) :
    writeRace s a b = if inSlots s 0 (pagesWanted s) a then some (memByte s.mem a) else none := by
  simp [writeRace, hbusy, slotUse_programs h]

theorem readRaces_of_programs (h : programsPages s) : readRaces s a = false := by
  simp [readRaces, slotUse_programs h]

theorem writeRace_of_other (b : Byte) (hr : ¬ readsPages s) (hp : ¬ programsPages s) : writeRace s a b = none := by
  simp [writeRace, slotUse_other hr hp]

theorem readRaces_of_other (hr : ¬ readsPages s) (hp : ¬ programsPages s) : readRaces s a = false := by
  simp [readRaces, slotUse_other hr hp]

/-! ### Which values compete -/

theorem rivals_cons_same (race : List (Nat × Byte)) (a : Nat) (v : Byte) :
    rivals ((a, v) :: race) a = v :: rivals race a := by
  simp [rivals]

theorem rivals_cons_other (race : List (Nat × Byte)) {a x : Nat} (v : Byte) (hx : x ≠ a) :
    rivals ((a, v) :: race) x = rivals race x := by
  simp [rivals, hx.symm]

theorem raceAfterWrite_of_race {b v : Byte} (h : writeRace s a b = some v) :
    raceAfterWrite s a b = (a, v) :: raceKept s a := by
  simp [raceAfterWrite, h]

theorem raceAfterWrite_of_no_race {b : Byte} (h : writeRace s a b = none) : raceAfterWrite s a b = s.race := by
  simp [raceAfterWrite, h]

theorem raceKept_of_reads (h : readsPages s) : raceKept s a = s.race.filter (fun e => e.1 != a) := by
  simp [raceKept, slotUse_reads h]

theorem raceKept_of_programs (h : programsPages s) : raceKept s a = s.race := by
  simp [raceKept, slotUse_programs h]

theorem rivals_raceKept_other {x : Nat} (hx : x ≠ a) : rivals (raceKept s a) x = rivals s.race x := by
  unfold raceKept
  split
  · exact rivals_filter_other s.race hx
  · rfl
  · rfl

/-- In a slot a read has yet to fill, the host's last byte is the one competing value. -/
theorem rivals_hostBufWrite_of_reads {b : Byte} (h : readsPages s) (hrace : writeRace s a b = some b) :
    rivals (hostBufWrite a b s).race a = [b] := by
  rw [hostBufWrite_race, raceAfterWrite_of_race hrace, rivals_cons_same, raceKept_of_reads h, rivals_filter_same]

/-- In a program's slot the byte that stood there joins the values that compete. -/
theorem rivals_hostBufWrite_of_programs {b v : Byte} (h : programsPages s) (hrace : writeRace s a b = some v) :
    rivals (hostBufWrite a b s).race a = v :: rivals s.race a := by
  rw [hostBufWrite_race, raceAfterWrite_of_race hrace, rivals_cons_same, raceKept_of_programs h]

/-- A host write changes what competes at its own address alone. -/
theorem rivals_hostBufWrite_other {x : Nat} (b : Byte) (hx : x ≠ a) :
    rivals (hostBufWrite a b s).race x = rivals s.race x := by
  rw [hostBufWrite_race]
  cases hrace : writeRace s a b with
  | none => rw [raceAfterWrite_of_no_race hrace]
  | some v => rw [raceAfterWrite_of_race hrace, rivals_cons_other _ v hx, rivals_raceKept_other hx]

theorem racedAfterRead_of_races (h : readRaces s a = true) :
    racedAfterRead s a = s.racedReads ++ [{ addr := a, old := memByte s.mem a, new := none, draw := s.draws }] :=
  if_pos h

/-! ### What a raced byte becomes in WR_LOAD and RD_CACHE (R192, R197) -/

theorem settleBytes_getElem? (race : List (Nat × Byte)) (d : Nat) : ∀ (bs : List Byte) (a k : Nat),
    (settleBytes race d a bs)[k]? = bs[k]?.map (settleByte race d (a + k))
  | [], _, _ => rfl
  | _ :: _, _, 0 => rfl
  | b :: bs, a, k + 1 => by
    rw [settleBytes, List.getElem?_cons_succ, List.getElem?_cons_succ, settleBytes_getElem? race d bs,
      Nat.add_right_comm, Nat.add_assoc]

/-- WR_LOAD reads the slot's bytes, each settled among itself and its rivals. -/
theorem slotData_getElem? (s : State) {k : Nat} (hk : k < s.params.profile.pageSizeBytes) :
    (slotData s)[k]? = some (settleByte s.race s.draws (slotAddr s + k) (memByte s.mem (slotAddr s + k))) := by
  rw [slotData, settleBytes_getElem?, memRead_getElem? _ _ _ _ hk, Option.map_some]

/-- RD_CACHE stores the received bytes, each settled among itself and its rivals. -/
theorem memByte_storePage_settled {r : List Byte} {k : Nat} {b : Byte} (hmem : memWf s.mem = true)
    (hk : k < s.params.profile.pageSizeBytes) (hb : r[k]? = some b) :
    memByte (storePage r s).mem (slotAddr s + k) = settleByte s.race s.draws (slotAddr s + k) b := by
  rw [storePage_mem]
  apply memByte_memWrite_inside _ _ hmem
  rw [settleBytes_getElem?, List.getElem?_take_of_lt hk, hb, Option.map_some]

theorem storePage_byte_old_or_new {r : List Byte} {k : Nat} (hmem : memWf s.mem = true)
    (hlen : r.length = s.params.profile.cu) (hk : k < s.params.profile.pageSizeBytes) :
    r[k]? = some (memByte (storePage r s).mem (slotAddr s + k)) ∨
      memByte (storePage r s).mem (slotAddr s + k) ∈ rivals s.race (slotAddr s + k) := by
  have hb : r[k]? = some (r[k]'(by rw [hlen, cu_eq]; omega)) := List.getElem?_eq_getElem _
  rw [memByte_storePage_settled hmem hk hb, hb]
  exact (settleByte_bound s.race s.draws _ _).imp_left fun h => congrArg some h.symm

theorem slotData_byte_old_or_new {k : Nat} {b : Byte} (hb : (slotData s)[k]? = some b) :
    b = memByte s.mem (slotAddr s + k) ∨ b ∈ rivals s.race (slotAddr s + k) := by
  have hk : k < s.params.profile.pageSizeBytes := by
    simpa [slotData] using (List.getElem?_eq_some_iff.mp hb).1
  rw [slotData_getElem? s hk, Option.some.injEq] at hb
  exact hb ▸ settleByte_bound s.race s.draws _ _

/-- A store reaches every raced read: one in the page's slot takes the byte received for it, any other is as it was. -/
theorem storePage_racedRead {r : List Byte} {i : Nat} {e : RacedRead} (he : s.racedReads[i]? = some e)
    (hlen : r.length = s.params.profile.cu) :
    ∃ e', (storePage r s).racedReads[i]? = some e' ∧ e' = { e with new := e'.new } ∧
      (∀ k, k < s.params.profile.pageSizeBytes → e.addr = slotAddr s + k → e'.new = r[k]?) ∧
      (e.addr < slotAddr s ∨ slotAddr s + s.params.profile.pageSizeBytes ≤ e.addr → e'.new = e.new) := by
  have hpage := length_take_page hlen
  refine ⟨e.afterStore (slotAddr s) (r.take s.params.profile.pageSizeBytes), ?_, RacedRead.afterStore_eq _ _ _,
    fun k hk ha => ?_, fun hout => ?_⟩
  · rw [storePage_racedReads, List.getElem?_map, he, Option.map_some]
  · rw [RacedRead.afterStore_inside ha (by omega), List.getElem?_take_of_lt hk]
  · exact RacedRead.afterStore_outside (by omega)

/-- Settles O48: a race is an access inside the busy command's slots, and every byte it touches is settled among the
byte itself and the values that compete there. -/
theorem racedBytesAreOldOrNew : Obligations.RacedBytesAreOldOrNew := by
  refine ⟨fun s a b hbusy => ⟨fun hr => ⟨fun hlo hhi => ?_, fun hout => ?_⟩,
      fun hp => ⟨readRaces_of_programs hp, fun hlo hhi => ?_, fun hout => ?_⟩,
      fun hr hp => ⟨writeRace_of_other b hr hp, readRaces_of_other hr hp⟩⟩,
    fun s a b hidle => ⟨writeRace_of_idle b hidle, readRaces_of_idle a hidle⟩,
    fun s a x b hx => rivals_hostBufWrite_other b hx,
    fun s r k hmem hlen hk => storePage_byte_old_or_new hmem hlen hk,
    fun s k b hb => slotData_byte_old_or_new hb,
    fun s r i e he hlen => storePage_racedRead he hlen,
    fun s e => ⟨fun b hnew => racedReadSaw_stored s hnew, fun hnew hopen => ?_, fun hnew hclosed => ?_⟩⟩
  · have hin := (inSlots_iff s _ _ a).mpr ⟨hlo, hhi⟩
    have hwrite : writeRace s a b = some b := (writeRace_of_reads b hbusy hr).trans (if_pos hin)
    exact ⟨hwrite, rivals_hostBufWrite_of_reads hr hwrite,
      racedAfterRead_of_races ((readRaces_of_reads hbusy hr).trans hin)⟩
  · have hnot := inSlots_eq_false hout
    exact ⟨(writeRace_of_reads b hbusy hr).trans (if_neg (Bool.eq_false_iff.mp hnot)),
      (readRaces_of_reads hbusy hr).trans hnot⟩
  · have hin := (inSlots_iff s 0 _ a).mpr ⟨by omega, hhi⟩
    have hwrite : writeRace s a b = some (memByte s.mem a) := (writeRace_of_programs b hbusy hp).trans (if_pos hin)
    exact ⟨hwrite, rivals_hostBufWrite_of_programs hp hwrite⟩
  · have hnot : inSlots s 0 (pagesWanted s) a = false := inSlots_eq_false (by rwa [Nat.zero_mul, Nat.add_zero])
    exact (writeRace_of_programs b hbusy hp).trans (if_neg (Bool.eq_false_iff.mp hnot))
  · exact (racedReadSaw_kept s hnew).trans (if_pos hopen)
  · exact (racedReadSaw_kept s hnew).trans (if_neg (Bool.eq_false_iff.mp hclosed))

end Sys2Proof.Machine
end
